-- ==== Sys2Proof/Word.lean ====
section
/-!
DEFINITION. The word types of the CHIP-8 core: every value is an unsigned integer of the width its
name states (00_scope.md R8), and there is no signed arithmetic (R140).
-/

namespace Sys2Proof

/-- A byte: a memory cell, a general register, a timer (10_state.md R20). -/
abbrev Byte := BitVec 8

/-- A 16-bit value: an instruction word, `pc`, `i`, a stack entry (R20, R70). -/
abbrev Word := BitVec 16

/-- A 12-bit address operand `nnn` (30_encoding.md R71). -/
abbrev Addr12 := BitVec 12

/-- A 4-bit row count `n` (R71, R72). -/
abbrev Nibble := BitVec 4

/-- The number of a general register, 0x0 to 0xF, and of a key (R22, R31, R72). -/
abbrev Reg := Fin 16

end Sys2Proof
end

