-- ==== Sys2Proof/Machine/Fields.lean ====
section
/-!
DEFINITION. The fields of an instruction word (30_encoding.md R71).
-/

namespace Sys2Proof

/-- The major opcode `h` = `op[15:12]` (R71). -/
def opH (w : Word) : Nibble := w.extractLsb' 12 4

/-- The function nibble `n` = `op[3:0]` (R71). -/
def opN (w : Word) : Nibble := w.extractLsb' 0 4

/-- The byte `nn` = `op[7:0]` (R71). -/
def opNN (w : Word) : Byte := w.extractLsb' 0 8

/-- The register field `x` = `op[11:8]` (R71). -/
def opX (w : Word) : Reg := (w.extractLsb' 8 4).toFin

/-- The register field `y` = `op[7:4]` (R71). -/
def opY (w : Word) : Reg := (w.extractLsb' 4 4).toFin

/-- The address field `nnn` = `op[11:0]` (R71). -/
def opNNN (w : Word) : Addr12 := w.extractLsb' 0 12

end Sys2Proof
end

