-- ==== Sys2Proof/Syntax.lean ====
section
/-!
DEFINITION. The instructions: one constructor per row of spec/opcode_table.json, in the table's order
(30_encoding.md R74). Each operand has exactly the width R71 and R72 give its field.
-/

namespace Sys2Proof

/-- The 34 instructions of R74. `x` and `y` name general registers, `nn` is an 8-bit immediate, `nnn` a
12-bit address and `n` a 4-bit row count (R72). -/
inductive Instr where
  /-- `00E0` CLS (R190). -/
  | cls
  /-- `00EE` RET (R120). -/
  | ret
  /-- `1nnn` JP nnn (R121). -/
  | jp (nnn : Addr12)
  /-- `2nnn` CALL nnn (R122). -/
  | call (nnn : Addr12)
  /-- `3xnn` SE Vx, nn (R123). -/
  | seImm (x : Reg) (nn : Byte)
  /-- `4xnn` SNE Vx, nn (R124). -/
  | sneImm (x : Reg) (nn : Byte)
  /-- `5xy0` SE Vx, Vy (R125). -/
  | seReg (x y : Reg)
  /-- `6xnn` LD Vx, nn (R142). -/
  | ldImm (x : Reg) (nn : Byte)
  /-- `7xnn` ADD Vx, nn (R143). -/
  | addImm (x : Reg) (nn : Byte)
  /-- `8xy0` LD Vx, Vy (R144). -/
  | ldReg (x y : Reg)
  /-- `8xy1` OR Vx, Vy (R145). -/
  | orReg (x y : Reg)
  /-- `8xy2` AND Vx, Vy (R146). -/
  | andReg (x y : Reg)
  /-- `8xy3` XOR Vx, Vy (R147). -/
  | xorReg (x y : Reg)
  /-- `8xy4` ADD Vx, Vy (R148). -/
  | addReg (x y : Reg)
  /-- `8xy5` SUB Vx, Vy (R149). -/
  | subReg (x y : Reg)
  /-- `8xy6` SHR Vx, Vy (R150). -/
  | shrReg (x y : Reg)
  /-- `8xy7` SUBN Vx, Vy (R151). -/
  | subnReg (x y : Reg)
  /-- `8xyE` SHL Vx, Vy (R152). -/
  | shlReg (x y : Reg)
  /-- `9xy0` SNE Vx, Vy (R126). -/
  | sneReg (x y : Reg)
  /-- `Annn` LD I, nnn (R170). -/
  | ldI (nnn : Addr12)
  /-- `Bnnn` JP V0, nnn (R127). -/
  | jpV0 (nnn : Addr12)
  /-- `Cxnn` RND Vx, nn (R155). -/
  | rnd (x : Reg) (nn : Byte)
  /-- `Dxyn` DRW Vx, Vy, n (R191). -/
  | drw (x y : Reg) (n : Nibble)
  /-- `Ex9E` SKP Vx (R210). -/
  | skp (x : Reg)
  /-- `ExA1` SKNP Vx (R211). -/
  | sknp (x : Reg)
  /-- `Fx07` LD Vx, DT (R212). -/
  | ldVxDT (x : Reg)
  /-- `Fx0A` LD Vx, K (R213). -/
  | ldVxK (x : Reg)
  /-- `Fx15` LD DT, Vx (R214). -/
  | ldDTVx (x : Reg)
  /-- `Fx18` LD ST, Vx (R215). -/
  | ldSTVx (x : Reg)
  /-- `Fx1E` ADD I, Vx (R171). -/
  | addIVx (x : Reg)
  /-- `Fx29` LD F, Vx (R172). -/
  | ldFVx (x : Reg)
  /-- `Fx33` LD B, Vx (R173). -/
  | ldBVx (x : Reg)
  /-- `Fx55` LD [I], Vx (R174). -/
  | storeRegs (x : Reg)
  /-- `Fx65` LD Vx, [I] (R175). -/
  | loadRegs (x : Reg)
deriving DecidableEq, Repr

end Sys2Proof
end

