-- ==== Sys2Proof/WellFormed.lean ====
section
/-!
DEFINITION. Which instruction words are well formed (30_encoding.md R73, R75).

Every operand of `Instr` has exactly the width of its field (R71), no instruction has a don't-care bit
(R76) and no operand value is reserved, so an `Instr` needs no check of its own: what can be ill formed
is a WORD. The checks below are R75's list of unknown words, one for each major opcode, written apart
from the decoder.
-/

namespace Sys2Proof

/-- Major opcode 0x0: the whole word is compared (R73, R75, D26). -/
def wellFormed0 (w : Word) : Bool := w == 0x00E0#16 || w == 0x00EE#16

/-- Major opcodes 0x5 and 0x9: the low nibble must be 0 (R75). -/
def wellFormedXY0 (w : Word) : Bool := opN w == 0x0#4

/-- Major opcode 0x8: the low nibble must not be 8 to D or F (R75). -/
def wellFormed8 (w : Word) : Bool :=
  !(opN w ∈ [0x8#4, 0x9#4, 0xA#4, 0xB#4, 0xC#4, 0xD#4, 0xF#4] : Bool)

/-- Major opcode 0xE: the low byte must be 9E or A1 (R75). -/
def wellFormedE (w : Word) : Bool := opNN w == 0x9E#8 || opNN w == 0xA1#8

/-- Major opcode 0xF: the low byte must be one of the nine function bytes (R75). -/
def wellFormedF (w : Word) : Bool :=
  (opNN w ∈ [0x07#8, 0x0A#8, 0x15#8, 0x18#8, 0x1E#8, 0x29#8, 0x33#8, 0x55#8, 0x65#8] : Bool)

/-- Is `w` a known instruction word? The negation is R75's list of unknown opcodes. -/
def wellFormedWord (w : Word) : Bool :=
  match (opH w).toNat with
  | 0x0 => wellFormed0 w
  | 0x5 => wellFormedXY0 w
  | 0x8 => wellFormed8 w
  | 0x9 => wellFormedXY0 w
  | 0xE => wellFormedE w
  | 0xF => wellFormedF w
  | _ => true

end Sys2Proof
end

