-- ==== Sys2Proof/Decode.lean ====
section
/-!
DEFINITION. The opcode table (30_encoding.md R74), the decoder (R73 to R75) and, after it, the encoder.
Decoding is a pure function of the word (R73).
-/

namespace Sys2Proof

/-- Major opcode 0x0: the whole word decides (R73, D26). -/
def decode0 (w : Word) : Option Instr :=
  if w = 0x00E0#16 then some .cls else if w = 0x00EE#16 then some .ret else none

/-- Major opcode 0x8: the low nibble decides (R73). -/
def decode8 (w : Word) : Option Instr :=
  match (opN w).toNat with
  | 0x0 => some (.ldReg (opX w) (opY w))
  | 0x1 => some (.orReg (opX w) (opY w))
  | 0x2 => some (.andReg (opX w) (opY w))
  | 0x3 => some (.xorReg (opX w) (opY w))
  | 0x4 => some (.addReg (opX w) (opY w))
  | 0x5 => some (.subReg (opX w) (opY w))
  | 0x6 => some (.shrReg (opX w) (opY w))
  | 0x7 => some (.subnReg (opX w) (opY w))
  | 0xE => some (.shlReg (opX w) (opY w))
  | _ => none

/-- Major opcode 0xE: the low byte decides (R73). -/
def decodeE (w : Word) : Option Instr :=
  match (opNN w).toNat with
  | 0x9E => some (.skp (opX w))
  | 0xA1 => some (.sknp (opX w))
  | _ => none

/-- Major opcode 0xF: the low byte decides (R73). -/
def decodeF (w : Word) : Option Instr :=
  match (opNN w).toNat with
  | 0x07 => some (.ldVxDT (opX w))
  | 0x0A => some (.ldVxK (opX w))
  | 0x15 => some (.ldDTVx (opX w))
  | 0x18 => some (.ldSTVx (opX w))
  | 0x1E => some (.addIVx (opX w))
  | 0x29 => some (.ldFVx (opX w))
  | 0x33 => some (.ldBVx (opX w))
  | 0x55 => some (.storeRegs (opX w))
  | 0x65 => some (.loadRegs (opX w))
  | _ => none

/-- The decoder: R73's first look at the major opcode, then at the secondary field. `none` is an
unknown opcode (R75). -/
def decode (w : Word) : Option Instr :=
  match (opH w).toNat with
  | 0x0 => decode0 w
  | 0x1 => some (.jp (opNNN w))
  | 0x2 => some (.call (opNNN w))
  | 0x3 => some (.seImm (opX w) (opNN w))
  | 0x4 => some (.sneImm (opX w) (opNN w))
  | 0x5 => if opN w = 0x0#4 then some (.seReg (opX w) (opY w)) else none
  | 0x6 => some (.ldImm (opX w) (opNN w))
  | 0x7 => some (.addImm (opX w) (opNN w))
  | 0x8 => decode8 w
  | 0x9 => if opN w = 0x0#4 then some (.sneReg (opX w) (opY w)) else none
  | 0xA => some (.ldI (opNNN w))
  | 0xB => some (.jpV0 (opNNN w))
  | 0xC => some (.rnd (opX w) (opNN w))
  | 0xD => some (.drw (opX w) (opY w) (opN w))
  | 0xE => decodeE w
  | _ => decodeF w

/-- Why bytes give no instruction. -/
inductive DecodeReject where
  /-- The word matches no row of R74 (R75). -/
  | unknownOpcode (op : Word)
  /-- Fewer than the two bytes every instruction has (R70). -/
  | tooShort
deriving DecidableEq, Repr

/-- The instruction word of two bytes, the byte at the lower address first: big-endian (R51). -/
def wordOfBytes (hi lo : Byte) : Word := hi ++ lo

/-- The two bytes of an instruction word as memory holds them, the lower address first (R51). -/
def bytesOfWord (w : Word) : List Byte := [w.extractLsb' 8 8, w.extractLsb' 0 8]

/-- Decode from bytes: the instruction and the bytes after it, or a named rejection (R70, R75). -/
def decodeBytes : List Byte → Except DecodeReject (Instr × List Byte)
  | hi :: lo :: rest =>
    match decode (wordOfBytes hi lo) with
    | some i => .ok (i, rest)
    | none => .error (.unknownOpcode (wordOfBytes hi lo))
  | _ => .error .tooShort

/-- The bytes of an instruction whose bits are `w`, numbered as the opcode table numbers them (bit 0 the
least significant of the one 16-bit word), the bits from `nbits` up being 0. -/
def tableBytes (nbits w : Nat) : List Byte :=
  bytesOfWord (BitVec.ofNat 16 (w % 2 ^ min nbits 16))

/-- What the decoder reads from an instruction whose bits are `w`. -/
def decodeTableWord (nbits w : Nat) : Option Instr :=
  match decodeBytes (tableBytes nbits w) with
  | .ok (i, _) => some i
  | .error _ => none

/-- The four bits of a register field (R71). -/
def regBits (r : Reg) : BitVec 4 := BitVec.ofFin (w := 4) r

/-- Format `XY0` and `XYF`: major opcode, `x`, `y`, function nibble (R71). -/
def encodeXY (h : BitVec 4) (x y : Reg) (f : BitVec 4) : Word := h ++ regBits x ++ regBits y ++ f

/-- Formats `XNN` and `XFN`: major opcode, `x`, byte (R71). -/
def encodeXNN (h : BitVec 4) (x : Reg) (nn : Byte) : Word := h ++ regBits x ++ nn

/-- Format `NNN`: major opcode, address (R71). -/
def encodeNNN (h : BitVec 4) (nnn : Addr12) : Word := h ++ nnn

/-- The encoder: the one word of each instruction (R74, R76). -/
def encode : Instr → Word
  | .cls => 0x00E0#16
  | .ret => 0x00EE#16
  | .jp nnn => encodeNNN 0x1#4 nnn
  | .call nnn => encodeNNN 0x2#4 nnn
  | .seImm x nn => encodeXNN 0x3#4 x nn
  | .sneImm x nn => encodeXNN 0x4#4 x nn
  | .seReg x y => encodeXY 0x5#4 x y 0x0#4
  | .ldImm x nn => encodeXNN 0x6#4 x nn
  | .addImm x nn => encodeXNN 0x7#4 x nn
  | .ldReg x y => encodeXY 0x8#4 x y 0x0#4
  | .orReg x y => encodeXY 0x8#4 x y 0x1#4
  | .andReg x y => encodeXY 0x8#4 x y 0x2#4
  | .xorReg x y => encodeXY 0x8#4 x y 0x3#4
  | .addReg x y => encodeXY 0x8#4 x y 0x4#4
  | .subReg x y => encodeXY 0x8#4 x y 0x5#4
  | .shrReg x y => encodeXY 0x8#4 x y 0x6#4
  | .subnReg x y => encodeXY 0x8#4 x y 0x7#4
  | .shlReg x y => encodeXY 0x8#4 x y 0xE#4
  | .sneReg x y => encodeXY 0x9#4 x y 0x0#4
  | .ldI nnn => encodeNNN 0xA#4 nnn
  | .jpV0 nnn => encodeNNN 0xB#4 nnn
  | .rnd x nn => encodeXNN 0xC#4 x nn
  | .drw x y n => encodeXY 0xD#4 x y n
  | .skp x => encodeXNN 0xE#4 x 0x9E#8
  | .sknp x => encodeXNN 0xE#4 x 0xA1#8
  | .ldVxDT x => encodeXNN 0xF#4 x 0x07#8
  | .ldVxK x => encodeXNN 0xF#4 x 0x0A#8
  | .ldDTVx x => encodeXNN 0xF#4 x 0x15#8
  | .ldSTVx x => encodeXNN 0xF#4 x 0x18#8
  | .addIVx x => encodeXNN 0xF#4 x 0x1E#8
  | .ldFVx x => encodeXNN 0xF#4 x 0x29#8
  | .ldBVx x => encodeXNN 0xF#4 x 0x33#8
  | .storeRegs x => encodeXNN 0xF#4 x 0x55#8
  | .loadRegs x => encodeXNN 0xF#4 x 0x65#8

/-- An instruction is well formed when its word is a known one (R75). Every `Instr` is: R76. -/
def Instr.wellFormed (i : Instr) : Bool := wellFormedWord (encode i)

/-- One row of R74: the bits compared and their values. -/
structure OpcodeRow where
  mask : Word
  pattern : Word
deriving DecidableEq, Repr

/-- Does `w` match the row (`op & mask == match`, R74)? -/
def OpcodeRow.hits (r : OpcodeRow) (w : Word) : Bool := w &&& r.mask == r.pattern

/-- The rows of R74 with a fixed word or a major opcode alone. -/
def rowsByMajor : List OpcodeRow :=
  [⟨0xFFFF#16, 0x00E0#16⟩, ⟨0xFFFF#16, 0x00EE#16⟩, ⟨0xF000#16, 0x1000#16⟩, ⟨0xF000#16, 0x2000#16⟩,
   ⟨0xF000#16, 0x3000#16⟩, ⟨0xF000#16, 0x4000#16⟩, ⟨0xF00F#16, 0x5000#16⟩, ⟨0xF000#16, 0x6000#16⟩,
   ⟨0xF000#16, 0x7000#16⟩]

/-- The rows of R74 with major opcode 8. -/
def rowsAlu : List OpcodeRow :=
  [⟨0xF00F#16, 0x8000#16⟩, ⟨0xF00F#16, 0x8001#16⟩, ⟨0xF00F#16, 0x8002#16⟩, ⟨0xF00F#16, 0x8003#16⟩,
   ⟨0xF00F#16, 0x8004#16⟩, ⟨0xF00F#16, 0x8005#16⟩, ⟨0xF00F#16, 0x8006#16⟩, ⟨0xF00F#16, 0x8007#16⟩,
   ⟨0xF00F#16, 0x800E#16⟩]

/-- The rows of R74 from `9xy0` to `ExA1`. -/
def rowsHigh : List OpcodeRow :=
  [⟨0xF00F#16, 0x9000#16⟩, ⟨0xF000#16, 0xA000#16⟩, ⟨0xF000#16, 0xB000#16⟩, ⟨0xF000#16, 0xC000#16⟩,
   ⟨0xF000#16, 0xD000#16⟩, ⟨0xF0FF#16, 0xE09E#16⟩, ⟨0xF0FF#16, 0xE0A1#16⟩]

/-- The rows of R74 with major opcode F. -/
def rowsMisc : List OpcodeRow :=
  [⟨0xF0FF#16, 0xF007#16⟩, ⟨0xF0FF#16, 0xF00A#16⟩, ⟨0xF0FF#16, 0xF015#16⟩, ⟨0xF0FF#16, 0xF018#16⟩,
   ⟨0xF0FF#16, 0xF01E#16⟩, ⟨0xF0FF#16, 0xF029#16⟩, ⟨0xF0FF#16, 0xF033#16⟩, ⟨0xF0FF#16, 0xF055#16⟩,
   ⟨0xF0FF#16, 0xF065#16⟩]

/-- The complete opcode map, 34 rows in the table's order (R74). -/
def opcodeTable : List OpcodeRow := rowsByMajor ++ rowsAlu ++ rowsHigh ++ rowsMisc

/-- The row of R74 an instruction stands in: its place in the table. -/
def Instr.rowIndex : Instr → Nat
  | .cls => 0 | .ret => 1 | .jp _ => 2 | .call _ => 3 | .seImm _ _ => 4 | .sneImm _ _ => 5
  | .seReg _ _ => 6 | .ldImm _ _ => 7 | .addImm _ _ => 8 | .ldReg _ _ => 9 | .orReg _ _ => 10
  | .andReg _ _ => 11 | .xorReg _ _ => 12 | .addReg _ _ => 13 | .subReg _ _ => 14
  | .shrReg _ _ => 15 | .subnReg _ _ => 16 | .shlReg _ _ => 17 | .sneReg _ _ => 18 | .ldI _ => 19
  | .jpV0 _ => 20 | .rnd _ _ => 21 | .drw _ _ _ => 22 | .skp _ => 23 | .sknp _ => 24
  | .ldVxDT _ => 25 | .ldVxK _ => 26 | .ldDTVx _ => 27 | .ldSTVx _ => 28 | .addIVx _ => 29
  | .ldFVx _ => 30 | .ldBVx _ => 31 | .storeRegs _ => 32 | .loadRegs _ => 33

end Sys2Proof
end

