-- ==== Sys2Proof/Config.lean ====
section
/-!
DEFINITION. What an implementation fixes (00_scope.md R7), the configuration of a run (10_state.md
R21), and the free values of the environment (60_exceptions.md R313, R320): constants with no body,
so that no proof can see what they are.
-/

namespace Sys2Proof

/-- `MEM_SIZE`: 4096 bytes, addresses 0x000 to 0xFFF (R7, R50). -/
def memSize : Nat := 0x1000

/-- `PROG_START` (R7). -/
def progStart : Nat := 0x200

/-- `FONT_BASE` (R7). -/
def fontBase : Nat := 0x50

/-- `FONT_LEN`: 16 characters of 5 bytes (R7). -/
def fontLen : Nat := 80

/-- `MAX_PROG_LEN` = 4096 - 0x200 (R7). -/
def maxProgLen : Nat := 3584

/-- The font table's 80 bytes: the parameter `FONT` (R7, R33). -/
abbrev Font := Vector Byte 80

/-- The configuration of a run: fixed, and never written by an instruction (R7, R21). -/
structure Config where
  /-- `SHIFT_USES_VY`: `8xy6` and `8xyE` shift `v[y]`, else `v[x]` (R153). -/
  shiftUsesVy : Bool
  /-- `LDST_INCREMENTS_I`: `Fx55` and `Fx65` advance `i` (R176). -/
  ldstIncrementsI : Bool
  /-- `DRAW_THROTTLE`: `Dxyn` may stall (R193). -/
  drawThrottle : Bool
  /-- `FONT` (R33). -/
  font : Font
deriving DecidableEq, Repr

/-- Free value: whether the host has closed the window before scheduler iteration number `k` (R313, R314,
D24). Log entry 7. -/
opaque Config.freeClosed (k : Nat) : Bool

/-- Free value: what `is_key_down` answers for the 16 keys in scheduler iteration number `k` (R321,
D19). Nothing constrains it. Log entry 5. -/
opaque Config.freeKeys (k : Nat) : Vector Bool 16

/-- Free value: the random byte presented in scheduler iteration number `k` (R155, D16). Log entry 3. -/
opaque Config.freeRnd (k : Nat) : Byte

/-- Free value: the throttle's stall decision in scheduler iteration number `k` (R193, D17). Log entry 4. -/
opaque Config.freeStall (k : Nat) : Bool

/-- Free value: whether a frame tick is due after the cycle of scheduler iteration number `k` (R313,
D18). Log entry 6. -/
opaque Config.freeFrameDue (k : Nat) : Bool

end Sys2Proof
end

