-- ==== Sys2Proof/Machine/Defaults.lean ====
section
/-!
DEFINITION. The default configuration (00_scope.md R7, 10_state.md R33).
-/

namespace Sys2Proof

/-- One character of the font, five rows from top to bottom (R33). -/
abbrev Glyph := Vector Byte 5

/-- The first eight characters, 0 to 7, of the default font (R33). PRESUMED: the spec supplies the
bytes from general knowledge (G1, D14); log entry 9. -/
def fontLow : Vector Byte 40 :=
  (#v[0xF0#8, 0x90#8, 0x90#8, 0x90#8, 0xF0#8] : Glyph) ++
  (#v[0x20#8, 0x60#8, 0x20#8, 0x20#8, 0x70#8] : Glyph) ++
  (#v[0xF0#8, 0x10#8, 0xF0#8, 0x80#8, 0xF0#8] : Glyph) ++
  (#v[0xF0#8, 0x10#8, 0xF0#8, 0x10#8, 0xF0#8] : Glyph) ++
  (#v[0x90#8, 0x90#8, 0xF0#8, 0x10#8, 0x10#8] : Glyph) ++
  (#v[0xF0#8, 0x80#8, 0xF0#8, 0x10#8, 0xF0#8] : Glyph) ++
  (#v[0xF0#8, 0x80#8, 0xF0#8, 0x90#8, 0xF0#8] : Glyph) ++
  (#v[0xF0#8, 0x10#8, 0x20#8, 0x40#8, 0x40#8] : Glyph)

/-- The last eight characters, 8 to F, of the default font (R33). PRESUMED, as `fontLow`. -/
def fontHigh : Vector Byte 40 :=
  (#v[0xF0#8, 0x90#8, 0xF0#8, 0x90#8, 0xF0#8] : Glyph) ++
  (#v[0xF0#8, 0x90#8, 0xF0#8, 0x10#8, 0xF0#8] : Glyph) ++
  (#v[0xF0#8, 0x90#8, 0xF0#8, 0x90#8, 0x90#8] : Glyph) ++
  (#v[0xE0#8, 0x90#8, 0xE0#8, 0x90#8, 0xE0#8] : Glyph) ++
  (#v[0xF0#8, 0x80#8, 0x80#8, 0x80#8, 0xF0#8] : Glyph) ++
  (#v[0xE0#8, 0x90#8, 0x90#8, 0x90#8, 0xE0#8] : Glyph) ++
  (#v[0xF0#8, 0x80#8, 0xF0#8, 0x80#8, 0xF0#8] : Glyph) ++
  (#v[0xF0#8, 0x80#8, 0xF0#8, 0x80#8, 0x80#8] : Glyph)

/-- The default of the parameter `FONT` (R33). PRESUMED (log entry 9). -/
def defaultFont : Font := fontLow ++ fontHigh

/-- The default configuration, the profile CHIP8/Scott8440 (R2, R7). -/
def Config.standard : Config :=
  { shiftUsesVy := true, ldstIncrementsI := true, drawThrottle := true, font := defaultFont }

end Sys2Proof
end

