-- ==== Sys2Proof/Machine/State.lean ====
section
/-!
DEFINITION. The machine's state (10_state.md R20), the ways a step can stop (60_exceptions.md R301,
R314), and the state after reset (R36, 70_reset_and_hazards.md R400).
-/

namespace Sys2Proof.Machine

/-- The 16 general registers `v[0]` to `v[0xF]` (R22). -/
abbrev RegFile := Vector Byte 16

/-- The 16 entries of the call stack (R28). -/
abbrev CallStack := Vector Word 16

/-- The level of each of the 16 keys, `true` for 1 (pressed) (R31; log entry 12). -/
abbrev Keys := Vector Bool 16

/-- The 64 by 32 framebuffer, one row of 64 cells for each `py`: cell `gfx[px + py*64]` is bit `px` of
row `py` (R32; log entry 14). -/
abbrev Framebuffer := Vector (BitVec 64) 32

/-- Memory: the cells that differ from the contents after reset, addresses rising (R33, R50; log entry
15). -/
abbrev Memory := List Host.Cell

/-- The values of the input ports for one scheduler iteration (60_exceptions.md R320). -/
structure EnvInput where
  /-- `is_open()` before the cycle (R314). -/
  isOpen : Bool
  /-- `is_key_down(k)` for the 16 keys at the poll (R321). -/
  keysIn : Keys
  /-- The random byte, read by `Cxnn` only (R155). -/
  rnd : Byte
  /-- The throttle's decision, read by `Dxyn` only, and only under `DRAW_THROTTLE` (R193). -/
  stall : Bool
  /-- Is a frame tick due after this cycle (R313)? -/
  frameDue : Bool
deriving DecidableEq, Repr

/-- The state of R20 (`mem` to `gfx`), the configuration of R21, and three fields of the model's own
(`env`, `drawIndex`, `frameOut`). -/
structure State where
  /-- `memory` (R20, R33). -/
  mem : Memory
  /-- `v[0]` to `v[0xF]` (R20, R22). -/
  v : RegFile
  /-- The index register `i` (R20, R25). -/
  i : Word
  /-- The program counter (R20, R26). -/
  pc : Word
  /-- `stack[0]` to `stack[15]` (R20, R28). -/
  stack : CallStack
  /-- The number of stack entries in use, 0 to 16 (R20, R28; log entry 13). -/
  sp : Fin 17
  /-- `delay_timer` (R20, R29). -/
  delayTimer : Byte
  /-- `sound_timer` (R20, R30), the output of R322. -/
  soundTimer : Byte
  /-- `keys[0]` to `keys[15]` as the last poll left them (R20, R31). -/
  keys : Keys
  /-- `gfx[0]` to `gfx[2047]` (R20, R32). -/
  gfx : Framebuffer
  /-- The configuration, fixed for a run (R21; log entry 8). -/
  cfg : Config
  /-- The model's own: the environment's coming inputs, one line an iteration (log entry 2). -/
  env : List EnvInput
  /-- The model's own: the number of the coming scheduler iteration, the argument of the free values
  (log entry 2). -/
  drawIndex : Nat
  /-- The model's own: the `frame_out` port of R320, the framebuffer last handed to the display (log
  entry 16). -/
  frameOut : Option Framebuffer
deriving DecidableEq, Repr

/-- The end of a run: the seven halt causes of R301, each with the opcode and the `pc` of R302, and
`closed` (R314). A fault carries no state: a halting cycle changes none (R104). -/
inductive Fault where
  /-- Code 0. Raised by decode, in any cycle, for a word that matches no row of R74 (R101). Safe: the
  spec's own halt. -/
  | unknownOpcode (opcode pc : Word)
  /-- Code 1. Raised by fetch, in any cycle, when `pc + 1 > 0xFFF`; no opcode was fetched (R100). Safe:
  the spec's own halt. -/
  | fetchOutOfRange (pc : Word)
  /-- Code 2. Raised by `Dxyn`, `Fx33`, `Fx55` and `Fx65` when the byte range passes 0xFFF (R55). Safe:
  the spec's own halt. -/
  | memoryOutOfRange (opcode pc : Word)
  /-- Code 3. Raised by `2nnn` when `sp` = 16 (R122). Safe: the spec's own halt. -/
  | stackOverflow (opcode pc : Word)
  /-- Code 4. Raised by `00EE` when `sp` = 0 (R120). Safe: the spec's own halt. -/
  | stackUnderflow (opcode pc : Word)
  /-- Code 5. Raised by `Ex9E` and `ExA1` when `v[x] > 0xF` (R210, R211). Safe: the spec's own halt. -/
  | keyOutOfRange (opcode pc : Word)
  /-- Code 6. Raised by `Fx1E` when `i + v[x] > 0xFFFF` (R171). Safe: the spec's own halt. -/
  | indexOverflow (opcode pc : Word)
  /-- Raised by the scheduler, before any cycle, when `is_open()` is false: the run's other end (R314).
  Safe: a host action that changes no state. -/
  | closed
deriving DecidableEq, Repr

/-- What the model refuses. No meaning and no step refuses anything. -/
inductive Refusal where
  /-- Raised by `boot`, before any step, when a `load` answers `ProgramTooLarge`: no run follows a failed
  load (R402, R325; ruling I1). Safe: nothing follows from a refusal. -/
  | failedLoad
  /-- Raised by `exec` for an instruction without a meaning; there is none. Safe: nothing follows from a refusal. -/
  | notModelled (mnemonic : String)
deriving DecidableEq, Repr

/-- What a cycle or a step answers. -/
abbrev Result := Host.Outcome State Fault Refusal

/-- The state `initialize()` leaves under a configuration (R36, R400), with no environment input listed
and no frame flushed yet. -/
def State.resetWith (cfg : Config) : State :=
  { mem := []
    v := Vector.replicate 16 0#8
    i := 0#16
    pc := 0x200#16
    stack := Vector.replicate 16 0#16
    sp := 0
    delayTimer := 0#8
    soundTimer := 0#8
    keys := Vector.replicate 16 false
    gfx := Vector.replicate 32 0#64
    cfg := cfg
    env := []
    drawIndex := 0
    frameOut := none }

/-- The machine right after reset, in the default configuration (R36, R400, R7). -/
def State.reset : State := State.resetWith Config.standard

end Sys2Proof.Machine
end

