-- ==== Sys2Proof/Machine/Memory.lean ====
section
/-!
DEFINITION. Memory as plain storage of 4096 bytes (20_memory.md R50, R56): the cells that differ from the
contents after reset, in one canonical form (log entry 15).
-/

namespace Sys2Proof.Machine

/-- What an address that no cell lists reads as: the contents after reset, FONT at 0x50 to 0x9F and 0
elsewhere (R33, R36). -/
def Memory.unlisted (f : Font) (a : Nat) : Byte :=
  if h : fontBase ≤ a ∧ a - fontBase < fontLen then f[a - fontBase]'h.2 else 0#8

/-- The byte at an address (R10 `MemRead`). -/
def Memory.read (f : Font) (m : Memory) (a : Nat) : Byte :=
  match m with
  | [] => Memory.unlisted f a
  | c :: rest => if c.1 = a then c.2 else Memory.read f rest a

/-- The list with the cell `(a, b)` before `rest`, or without it where an unlisted `a` reads as `b`. -/
def Memory.cell (f : Font) (a : Nat) (b : Byte) (rest : Memory) : Memory :=
  if b = Memory.unlisted f a then rest else (a, b) :: rest

/-- Set the byte at an address, keeping the canonical form (R10 `MemWrite`). -/
def Memory.write (f : Font) (m : Memory) (a : Nat) (b : Byte) : Memory :=
  match m with
  | [] => Memory.cell f a b []
  | c :: rest =>
    if a < c.1 then Memory.cell f a b (c :: rest)
    else if a = c.1 then Memory.cell f a b rest
    else c :: Memory.write f rest a b

/-- Set consecutive bytes, the first at `a`, in rising order (R52, R53). -/
def Memory.writeList (f : Font) (m : Memory) (a : Nat) : List Byte → Memory
  | [] => m
  | b :: bs => Memory.writeList f (Memory.write f m a b) (a + 1) bs

/-- The canonical form: addresses strictly rising and inside memory, no cell equal to what an unlisted
address reads as. -/
abbrev Memory.wf (f : Font) (m : Memory) : Prop :=
  (m.map Prod.fst).Pairwise (· < ·) ∧ ∀ c ∈ m, c.1 < memSize ∧ c.2 ≠ Memory.unlisted f c.1

end Sys2Proof.Machine
end

