-- ==== Sys2Proof/Machine/Ops.lean ====
section
/-!
DEFINITION. The shared operations: registers, memory, the stack, the program counter, the environment's
inputs, and the halt, which is this core's only exceptional outcome (60_exceptions.md R300: no vector,
no saved register, no return; R304).
-/

namespace Sys2Proof.Machine

/-- `v[0xF]`, the flag register VF (R23). -/
def vf : Reg := 15

/-- Read `v[r]` (R10). -/
def State.getV (s : State) (r : Reg) : Byte := s.v[r]

/-- Write `v[r]` (R10). No register is hardwired (R22). -/
def State.setV (s : State) (r : Reg) (b : Byte) : State := { s with v := s.v.set r b }

/-- Write VF as a flag (R23). -/
def State.setFlag (s : State) (b : Byte) : State := s.setV vf b

/-- The writes of `8xy1` to `8xyE`: the result to `v[x]`, then the flag to VF, so that the flag is what
VF holds when `x` is 0xF (R141). -/
def State.setResultFlag (s : State) (x : Reg) (result flag : Byte) : State :=
  (s.setV x result).setFlag flag

/-- Write `i`. -/
def State.setI (s : State) (w : Word) : State := { s with i := w }

/-- The address of the following instruction, `next` = `pc + 2` (R102). -/
def State.nextPc (s : State) : Word := s.pc + 2#16

/-- `pc <- target`: a jump, call or return (R102). -/
def State.setPc (s : State) (w : Word) : State := { s with pc := w }

/-- `pc <- next`: the normal advance (R102). -/
def State.advance (s : State) : State := s.setPc s.nextPc

/-- `pc <- next + 2` when `c` holds, else `pc <- next`: a skip (R102, R128). -/
def State.skipIf (s : State) (c : Bool) : State :=
  s.setPc (if c then s.nextPc + 2#16 else s.nextPc)

/-- A stall: nothing changes, `pc` included, and the cycle still answers `Continue` (R106, R411). -/
def State.stay (s : State) : State := s

/-- Halt at instruction `i` with a cause: no effect, and the report carries the opcode and the `pc` of
the halting instruction (R12, R302, R304). The opcode is the word fetched, which is the one word of `i`
(R76; log entry 11). -/
def halt (cause : Word → Word → Fault) (i : Instr) (s : State) : Result :=
  .fault (cause (encode i) s.pc)

/-- The byte at an address (R10 `MemRead`). -/
def State.readByte (s : State) (a : Nat) : Byte := Memory.read s.cfg.font s.mem a

/-- Set consecutive bytes from an address up (R10 `MemWrite`, R52). -/
def State.writeBytes (s : State) (a : Nat) (bs : List Byte) : State :=
  { s with mem := Memory.writeList s.cfg.font s.mem a bs }

/-- Would an access to the bytes from `i` to `i + last` pass 0xFFF? The sum cannot wrap (R55). -/
def State.rangeFails (s : State) (last : Nat) : Bool := decide (s.i.toNat + last > 0xFFF)

/-- The free values of scheduler iteration number `k`, one for each input port (R320; log entries 3 to 7). -/
def freeInput (k : Nat) : EnvInput :=
  { isOpen := !Config.freeClosed k
    keysIn := Config.freeKeys k
    rnd := Config.freeRnd k
    stall := Config.freeStall k
    frameDue := Config.freeFrameDue k }

/-- The input ports' values for the coming iteration: the first listed line; with none listed, free
values (R320; log entry 2). -/
def State.input (s : State) : EnvInput :=
  match s.env with
  | e :: _ => e
  | [] => freeInput s.drawIndex

/-- The state with one line of inputs listed, `e`, and no other: the environment answers `e` next (log entry
2). -/
def State.facing (s : State) (e : EnvInput) : State := { s with env := [e] }

/-- Push the return address and go to `target`: store at `stack[sp]`, then increment (R28, R122). `none`
when the stack is full. -/
def State.push? (s : State) (target : Word) : Option State :=
  if h : s.sp.val < 16 then
    some { s with
      stack := s.stack.set s.sp.val s.nextPc h
      sp := ⟨s.sp.val + 1, Nat.succ_lt_succ h⟩
      pc := target }
  else none

/-- Pop the return address into `pc`: decrement, then load from `stack[sp]`; the entry stays (R28,
R120). `none` when the stack is empty. -/
def State.pop? (s : State) : Option State :=
  if h : 0 < s.sp.val then
    have lt : s.sp.val - 1 < 16 := by have := s.sp.isLt; omega
    some { s with
      sp := ⟨s.sp.val - 1, Nat.lt_succ_of_lt lt⟩
      pc := s.stack[s.sp.val - 1] }
  else none

/-- Go on from the next state of an outcome, and keep a stop as it is. -/
def andThen (o : Result) (f : State → Result) : Result :=
  match o with
  | .next s => f s
  | .fault r => .fault r
  | .refused r => .refused r

/-- Apply `f` to the next state of an outcome, and keep a stop as it is. -/
def mapNext (f : State → State) (o : Result) : Result :=
  match o with
  | .next s => .next (f s)
  | .fault r => .fault r
  | .refused r => .refused r

end Sys2Proof.Machine
end

