-- ==== Sys2Proof/Machine/Flags.lean ====
section
/-!
DEFINITION. The values VF receives: carry, NOT borrow, the bit shifted out, collision (10_state.md R23,
42_alu.md R140). There are no other flags (R24).
-/

namespace Sys2Proof.Machine

/-- A flag's byte: 1 or 0. -/
def flagOf (c : Bool) : Byte := if c then 1#8 else 0#8

/-- The 9-bit sum of two bytes (R148). -/
def sum9 (a b : Byte) : BitVec 9 := a.setWidth 9 + b.setWidth 9

/-- The carry of an addition: bit 8 of the 9-bit sum (R140, R148). -/
def carryOf (a b : Byte) : Byte := flagOf ((sum9 a b).getLsbD 8)

/-- NOT borrow of `a - b`: 1 when `a ≥ b` as unsigned values (R140, R149). -/
def notBorrow (a b : Byte) : Byte := flagOf (decide (b.toNat ≤ a.toNat))

/-- The bit a shift right by one drops: bit 0 (R150). -/
def droppedRight (a : Byte) : Byte := flagOf (a.getLsbD 0)

/-- The bit a shift left by one drops: bit 7 (R152). -/
def droppedLeft (a : Byte) : Byte := flagOf (a.getLsbD 7)

end Sys2Proof.Machine
end

