-- ==== Sys2Proof/Machine/Operands.lean ====
section
/-!
DEFINITION. The operand forms: addresses, the shift's source, the key code, the font address, the bytes of
a sprite, of a BCD store and of the register block (30_encoding.md R72, files 42 to 45).
-/

namespace Sys2Proof.Machine

/-- `zext_16(nnn)`: a 12-bit address as a `pc` or `i` (R72). -/
def addr (nnn : Addr12) : Word := nnn.setWidth 16

/-- The target of `Bnnn`: `nnn` plus `v[0]`, 16 bits, neither wrapped nor masked (R127). -/
def offsetTarget (s : State) (nnn : Addr12) : Word := addr nnn + (s.getV 0).setWidth 16

/-- The source of `8xy6` and `8xyE`: `v[y]` under `SHIFT_USES_VY`, else `v[x]` (R153). -/
def shiftSource (s : State) (x y : Reg) : Byte :=
  if s.cfg.shiftUsesVy then s.getV y else s.getV x

/-- The key `v[x]` names, or `none` above 0xF (R210). -/
def keyCode (s : State) (x : Reg) : Option Reg :=
  if h : (s.getV x).toNat < 16 then some ⟨(s.getV x).toNat, h⟩ else none

/-- Is key `k` down, as the last poll left it (R31)? -/
def keyDown (s : State) (k : Reg) : Bool := s.keys[k]

/-- The lowest-numbered pressed key, or `none` with no key down (R213). -/
def lowestKey (s : State) : Option Reg := (List.finRange 16).find? (fun k => keyDown s k)

/-- The address of the font character `v[x]`, which is not masked (R172). -/
def fontAddress (s : State) (x : Reg) : Word := (s.getV x).setWidth 16 * 5#16 + 0x50#16

/-- The three decimal digits of a byte, hundreds first (R173). -/
def bcdDigits (b : Byte) : List Byte := [b / 100#8, (b / 10#8) % 10#8, b % 10#8]

/-- The values of `v[0]` to `v[x]` (R174). -/
def regBlock (s : State) (x : Reg) : List Byte := s.v.toList.take (x.val + 1)

/-- The registers after `v[0]` to `v[x]` are loaded from the bytes at `i` (R175). -/
def loadedRegs (s : State) (x : Reg) : RegFile :=
  Vector.ofFn fun k : Fin 16 => if k ≤ x then s.readByte (s.i.toNat + k.val) else s.v[k]

/-- `i` after `Fx55` or `Fx65`: advanced by `x + 1` under `LDST_INCREMENTS_I` (R176). -/
def indexAfterBlock (s : State) (x : Reg) : Word :=
  if s.cfg.ldstIncrementsI then s.i + BitVec.ofNat 16 (x.val + 1) else s.i

/-- The `n` bytes of a sprite, at `i` up, top row first (R192). -/
def spriteRows (s : State) (n : Nat) : List Byte :=
  (List.range n).map fun r => s.readByte (s.i.toNat + r)

end Sys2Proof.Machine
end

