-- ==== Sys2Proof/Machine/Alu.lean ====
section
/-!
DEFINITION. The register and ALU instructions (42_alu.md). None halts; each ends with `pc <- next`.
-/

namespace Sys2Proof.Machine

/-- A write of one register, then the normal advance. -/
def loadTo (s : State) (x : Reg) (b : Byte) : Result := .next (s.setV x b).advance

/-- A result and a flag, then the normal advance (R141). -/
def resultTo (s : State) (x : Reg) (result flag : Byte) : Result :=
  .next (s.setResultFlag x result flag).advance

/-- `6xnn` LD Vx, nn (R142). -/
def execLdImm (x : Reg) (nn : Byte) (s : State) : Result := loadTo s x nn

/-- `7xnn` ADD Vx, nn (R143): wraps, and no flag changes. -/
def execAddImm (x : Reg) (nn : Byte) (s : State) : Result := loadTo s x (s.getV x + nn)

/-- `8xy0` LD Vx, Vy (R144). -/
def execLdReg (x y : Reg) (s : State) : Result := loadTo s x (s.getV y)

/-- `8xy1` OR Vx, Vy (R145): VF is reset. -/
def execOrReg (x y : Reg) (s : State) : Result := resultTo s x (s.getV x ||| s.getV y) 0#8

/-- `8xy2` AND Vx, Vy (R146): VF is reset. -/
def execAndReg (x y : Reg) (s : State) : Result := resultTo s x (s.getV x &&& s.getV y) 0#8

/-- `8xy3` XOR Vx, Vy (R147): VF is reset. -/
def execXorReg (x y : Reg) (s : State) : Result := resultTo s x (s.getV x ^^^ s.getV y) 0#8

/-- `8xy4` ADD Vx, Vy (R148): VF is the carry. -/
def execAddReg (x y : Reg) (s : State) : Result :=
  resultTo s x ((sum9 (s.getV x) (s.getV y)).setWidth 8) (carryOf (s.getV x) (s.getV y))

/-- `8xy5` SUB Vx, Vy (R149): VF is NOT borrow. -/
def execSubReg (x y : Reg) (s : State) : Result :=
  resultTo s x (s.getV x - s.getV y) (notBorrow (s.getV x) (s.getV y))

/-- `8xy6` SHR Vx, Vy (R150): VF is the bit shifted out. -/
def execShrReg (x y : Reg) (s : State) : Result :=
  resultTo s x (shiftSource s x y >>> 1) (droppedRight (shiftSource s x y))

/-- `8xy7` SUBN Vx, Vy (R151): VF is NOT borrow of `v[y] - v[x]`. -/
def execSubnReg (x y : Reg) (s : State) : Result :=
  resultTo s x (s.getV y - s.getV x) (notBorrow (s.getV y) (s.getV x))

/-- `8xyE` SHL Vx, Vy (R152): VF is the bit shifted out. -/
def execShlReg (x y : Reg) (s : State) : Result :=
  resultTo s x (shiftSource s x y <<< 1) (droppedLeft (shiftSource s x y))

/-- `Cxnn` RND Vx, nn (R155): the random byte is the environment's (log entry 3). -/
def execRnd (x : Reg) (nn : Byte) (s : State) : Result := loadTo s x (s.input.rnd &&& nn)

end Sys2Proof.Machine
end

