-- ==== Sys2Proof/Machine/Control.lean ====
section
/-!
DEFINITION. Control transfer: jumps, calls, returns, skips (41_control.md). A transfer takes effect at the
next cycle's fetch, and no target is checked here (R128).
-/

namespace Sys2Proof.Machine

/-- `00EE` RET (R120). -/
def execRet (s : State) : Result :=
  match s.pop? with
  | some t => .next t
  | none => halt .stackUnderflow .ret s

/-- `1nnn` JP nnn (R121). -/
def execJp (nnn : Addr12) (s : State) : Result := .next (s.setPc (addr nnn))

/-- `2nnn` CALL nnn (R122). -/
def execCall (nnn : Addr12) (s : State) : Result :=
  match s.push? (addr nnn) with
  | some t => .next t
  | none => halt .stackOverflow (.call nnn) s

/-- `3xnn` SE Vx, nn (R123). -/
def execSeImm (x : Reg) (nn : Byte) (s : State) : Result := .next (s.skipIf (s.getV x == nn))

/-- `4xnn` SNE Vx, nn (R124). -/
def execSneImm (x : Reg) (nn : Byte) (s : State) : Result := .next (s.skipIf (s.getV x != nn))

/-- `5xy0` SE Vx, Vy (R125). -/
def execSeReg (x y : Reg) (s : State) : Result := .next (s.skipIf (s.getV x == s.getV y))

/-- `9xy0` SNE Vx, Vy (R126). -/
def execSneReg (x y : Reg) (s : State) : Result := .next (s.skipIf (s.getV x != s.getV y))

/-- `Bnnn` JP V0, nnn (R127). -/
def execJpV0 (nnn : Addr12) (s : State) : Result := .next (s.setPc (offsetTarget s nnn))

end Sys2Proof.Machine
end

