-- ==== Sys2Proof/Machine/Display.lean ====
section
/-!
DEFINITION. The draw unit and the framebuffer instructions (44_display.md).
-/

namespace Sys2Proof.Machine

/-- The cell at column `px`, row `py` (R32); a place off the screen has no cell and reads as off. -/
def pixel (g : Framebuffer) (px py : Nat) : Bool :=
  if h : py < 32 then (g[py]'h).getLsbD px else false

/-- `gfx[k]` of R20, the cells numbered row by row (R32). -/
def gfxCell (g : Framebuffer) (k : Nat) : Bool := pixel g (k % 64) (k / 64)

/-- XOR the cell at column `px`, row `py` with 1 (R191). -/
def togglePixel (g : Framebuffer) (px py : Nat) : Framebuffer :=
  if h : py < 32 then g.set py ((g[py]'h) ^^^ (1#64 <<< px)) h else g

/-- What the draw carries along: the framebuffer so far and the collision so far (R191). -/
abbrev Canvas := Framebuffer × Bool

/-- One sprite pixel: a clear bit does nothing, a pixel off the screen is clipped, and a set pixel turned
off is a collision (R191). -/
def drawPixel (px py : Nat) (on : Bool) (c : Canvas) : Canvas :=
  if on && decide (px < 64) && decide (py < 32) then (togglePixel c.1 px py, c.2 || pixel c.1 px py) else c

/-- One sprite row: bit 7 at column `x0`, bit 0 at column `x0 + 7` (R191, R192; log entry 10). -/
def drawRow (x0 py : Nat) (row : Byte) (c : Canvas) : Canvas :=
  (List.range 8).foldl (fun acc k => drawPixel (x0 + k) py (row.getLsbD (7 - k)) acc) c

/-- The rows of a sprite, from screen row `py` down (R191). -/
def drawRows (x0 py : Nat) (rows : List Byte) (c : Canvas) : Canvas :=
  match rows with
  | [] => c
  | row :: rest => drawRows x0 (py + 1) rest (drawRow x0 py row c)

/-- The column a sprite starts at: `v[x]` mod 64 (R191). -/
def startColumn (s : State) (x : Reg) : Nat := (s.getV x).toNat % 64

/-- The row a sprite starts at: `v[y]` mod 32 (R191, C3). -/
def startRow (s : State) (y : Reg) : Nat := (s.getV y).toNat % 32

/-- The framebuffer and the collision after a draw: every operand is of the state before (R191, D12). -/
def drawn (s : State) (x y : Reg) (n : Nat) : Canvas :=
  drawRows (startColumn s x) (startRow s y) (spriteRows s n) (s.gfx, false)

/-- Does this `Dxyn` stall: the throttle is on and the environment says so (R193; log entry 4)? -/
def State.throttled (s : State) : Bool := s.cfg.drawThrottle && s.input.stall

/-- `00E0` CLS (R190). -/
def execCls (s : State) : Result := .next { s with gfx := Vector.replicate 32 0#64 }.advance

/-- `Dxyn` DRW Vx, Vy, n (R191): the stall comes before the range check (R303, D9). -/
def execDrw (x y : Reg) (n : Nibble) (s : State) : Result :=
  if s.throttled then .next s.stay
  else if decide (n.toNat > 0) && s.rangeFails (n.toNat - 1) then halt .memoryOutOfRange (.drw x y n) s
  else
    let c := drawn s x y n.toNat
    .next ({ s with gfx := c.1 }.setFlag (flagOf c.2)).advance

end Sys2Proof.Machine
end

