-- ==== Sys2Proof/Machine/IndexMemory.lean ====
section
/-!
DEFINITION. The index register and the memory instructions (43_index_memory.md). Each checks the whole
range it touches before its first write (20_memory.md R55).
-/

namespace Sys2Proof.Machine

/-- `Annn` LD I, nnn (R170). -/
def execLdI (nnn : Addr12) (s : State) : Result := .next (s.setI (addr nnn)).advance

/-- `Fx1E` ADD I, Vx (R171): no flag; halts when the sum does not fit in 16 bits. -/
def execAddIVx (x : Reg) (s : State) : Result :=
  if s.i.toNat + (s.getV x).toNat > 0xFFFF then halt .indexOverflow (.addIVx x) s
  else .next (s.setI (s.i + (s.getV x).setWidth 16)).advance

/-- `Fx29` LD F, Vx (R172). -/
def execLdFVx (x : Reg) (s : State) : Result := .next (s.setI (fontAddress s x)).advance

/-- `Fx33` LD B, Vx (R173). -/
def execLdBVx (x : Reg) (s : State) : Result :=
  if s.rangeFails 2 then halt .memoryOutOfRange (.ldBVx x) s
  else .next (s.writeBytes s.i.toNat (bcdDigits (s.getV x))).advance

/-- `Fx55` LD [I], Vx (R174). -/
def execStoreRegs (x : Reg) (s : State) : Result :=
  if s.rangeFails x.val then halt .memoryOutOfRange (.storeRegs x) s
  else .next ((s.writeBytes s.i.toNat (regBlock s x)).setI (indexAfterBlock s x)).advance

/-- `Fx65` LD Vx, [I] (R175). -/
def execLoadRegs (x : Reg) (s : State) : Result :=
  if s.rangeFails x.val then halt .memoryOutOfRange (.loadRegs x) s
  else .next ({ s with v := loadedRegs s x }.setI (indexAfterBlock s x)).advance

end Sys2Proof.Machine
end

