-- ==== Sys2Proof/Machine/KeysTimers.lean ====
section
/-!
DEFINITION. The key and timer instructions (45_timers_keys.md). Keys are read as the poll before this cycle
left them (60_exceptions.md R321).
-/

namespace Sys2Proof.Machine

/-- `Ex9E` SKP Vx (R210). -/
def execSkp (x : Reg) (s : State) : Result :=
  match keyCode s x with
  | some k => .next (s.skipIf (keyDown s k))
  | none => halt .keyOutOfRange (.skp x) s

/-- `ExA1` SKNP Vx (R211). -/
def execSknp (x : Reg) (s : State) : Result :=
  match keyCode s x with
  | some k => .next (s.skipIf (!keyDown s k))
  | none => halt .keyOutOfRange (.sknp x) s

/-- `Fx07` LD Vx, DT (R212). -/
def execLdVxDT (x : Reg) (s : State) : Result := .next (s.setV x s.delayTimer).advance

/-- `Fx0A` LD Vx, K (R213): stalls while no key is down. -/
def execLdVxK (x : Reg) (s : State) : Result :=
  match lowestKey s with
  | some k => .next (s.setV x (BitVec.ofNat 8 k.val)).advance
  | none => .next s.stay

/-- `Fx15` LD DT, Vx (R214). -/
def execLdDTVx (x : Reg) (s : State) : Result := .next { s with delayTimer := s.getV x }.advance

/-- `Fx18` LD ST, Vx (R215). -/
def execLdSTVx (x : Reg) (s : State) : Result := .next { s with soundTimer := s.getV x }.advance

end Sys2Proof.Machine
end

