-- ==== Sys2Proof/Machine/Cycle.lean ====
section
/-!
DEFINITION. `cycle()`, the one step of the core (40_cycle.md R100 to R106): fetch, decode, execute.
-/

namespace Sys2Proof.Machine

/-- Fetch: the big-endian word at `pc`, or `none` when `pc + 1` is above 0xFFF; the sum cannot wrap, and
`pc` may be odd (R100, R51, R54). -/
def fetch (s : State) : Option Word :=
  if s.pc.toNat + 1 > 0xFFF then none
  else some (wordOfBytes (s.readByte s.pc.toNat) (s.readByte (s.pc.toNat + 1)))

/-- One `cycle()`: the fetch range first, then decode, then the instruction (R303). -/
def cycle (s : State) : Result :=
  match fetch s with
  | none => .fault (.fetchOutOfRange s.pc)
  | some op =>
    match decode op with
    | none => .fault (.unknownOpcode op s.pc)
    | some i => exec i s

end Sys2Proof.Machine
end

