-- ==== Sys2Proof/Machine/Scheduler.lean ====
section
/-!
DEFINITION. The scheduler (60_exceptions.md R310): the key poll, one cycle, the frame tick. The environment
acts only between cycles (R59, R313).
-/

namespace Sys2Proof.Machine

/-- The key poll before a cycle: all 16 entries are overwritten (R321). -/
def State.poll (s : State) : State := { s with keys := s.input.keysIn }

/-- A timer at a frame tick: one less, staying at 0 (R311). -/
def countDown (t : Byte) : Byte := if t = 0#8 then 0#8 else t - 1#8

/-- The frame tick: both timers count down, then the framebuffer is flushed to the display (R311, R312). -/
def State.frameTick (s : State) : State :=
  { s with
    delayTimer := countDown s.delayTimer
    soundTimer := countDown s.soundTimer
    frameOut := some s.gfx }

/-- The frame tick where one is due (R310); field by field, so that the other fields do not depend on
whether it was. -/
def State.tickWhen (s : State) (due : Bool) : State :=
  { s with
    delayTimer := if due then s.frameTick.delayTimer else s.delayTimer
    soundTimer := if due then s.frameTick.soundTimer else s.soundTimer
    frameOut := if due then s.frameTick.frameOut else s.frameOut }

/-- The environment goes on to its next line of inputs (log entry 2). -/
def State.nextInput (s : State) : State := { s with env := s.env.tail, drawIndex := s.drawIndex + 1 }

/-- What follows a cycle that did not halt: at most one frame tick, then the next inputs (R310, R313). -/
def State.endIteration (s : State) : State := (s.tickWhen s.input.frameDue).nextInput

/-- One iteration of the scheduler's loop (R310): the `is_open` test, the poll, one cycle, and a frame
tick if one is due; no tick after a halting cycle (D27). -/
def iteration (s : State) : Result :=
  if s.input.isOpen then mapNext State.endIteration (cycle s.poll) else .fault .closed

/-- Environment inputs under which an iteration runs its instruction and nothing else happens: the window
open, no key down, no stall, no tick, the random byte 0. -/
def quietInput : EnvInput :=
  { isOpen := true, keysIn := Vector.replicate 16 false, rnd := 0#8, stall := false, frameDue := false }

/-- The state with a coming line of inputs under which the next iteration runs the fetched instruction:
the first listed line with the window open and no stall, or the quiet line where none is listed. -/
def State.letRun (s : State) : State :=
  match s.env with
  | [] => { s with env := [quietInput] }
  | e :: rest => { s with env := { e with isOpen := true, stall := false } :: rest }

/-- The state with `pc` where a fetch is possible: unchanged if it is, else `PROG_START`. -/
def State.fetchable (s : State) : State :=
  if s.pc.toNat + 1 > 0xFFF then s.setPc 0x200#16 else s

/-- The state with an instruction's bytes where the next fetch reads them. -/
def State.placeAtPc (s : State) (bs : List Byte) : State := s.writeBytes s.pc.toNat bs

end Sys2Proof.Machine
end

