-- ==== Sys2Proof/Machine/Boot.lean ====
section
/-!
DEFINITION. What the host does before a run: `initialize()` and `load(bytes)` (70_reset_and_hazards.md R400
to R403).
-/

namespace Sys2Proof.Machine

/-- `initialize()`: the reset state under the same configuration (R400). The environment's own inputs and
the frame already flushed are no state of the core. -/
def State.initialized (s : State) : State :=
  { State.resetWith s.cfg with env := s.env, drawIndex := s.drawIndex, frameOut := s.frameOut }

/-- The `load_result` port (R320, R402). -/
inductive LoadResult where
  | ok
  | programTooLarge
deriving DecidableEq, Repr

/-- `load(bytes)`: place a program at 0x200; one that does not fit changes nothing (R401, R402). No run
follows a failure: `boot` refuses it (R325). -/
def State.load (s : State) (bytes : List Byte) : LoadResult × State :=
  if progStart + bytes.length > memSize then (.programTooLarge, s)
  else (.ok, s.writeBytes progStart bytes)

/-- Load programs in turn, each over the last; from the first that does not fit on, refused: no run follows a
failed load (R402, R325; ruling I1). -/
def State.loadAll (s : State) (programs : List (List Byte)) : Result :=
  match programs with
  | [] => .next s
  | p :: rest =>
    match s.load p with
    | (.ok, t) => t.loadAll rest
    | (.programTooLarge, _) => .refused .failedLoad

/-- The boot: `initialize()`, whatever aggregate was created, then `load`, which must answer `Ok` each time
(R403, D23). -/
def boot (s : State) (programs : List (List Byte)) : Result := s.initialized.loadAll programs

end Sys2Proof.Machine
end

