-- ==== Sys2Proof/Machine/Halt.lean ====
section
/-!
DEFINITION. The halt signal the core returns to its caller (60_exceptions.md R301, R302, R320).
-/

namespace Sys2Proof.Machine

/-- The `result` port's `Halt(cause 3 bits, opcode 16 bits or none, pc 16 bits)` (R302, R320). -/
structure HaltSignal where
  cause : BitVec 3
  opcode : Option Word
  pc : Word
deriving DecidableEq, Repr

/-- The halt signal of a fault, with the cause codes of R301; `closed` is no halt (R314). -/
def haltSignal (f : Fault) : Option HaltSignal :=
  match f with
  | .unknownOpcode op pc => some ⟨0#3, some op, pc⟩
  | .fetchOutOfRange pc => some ⟨1#3, none, pc⟩
  | .memoryOutOfRange op pc => some ⟨2#3, some op, pc⟩
  | .stackOverflow op pc => some ⟨3#3, some op, pc⟩
  | .stackUnderflow op pc => some ⟨4#3, some op, pc⟩
  | .keyOutOfRange op pc => some ⟨5#3, some op, pc⟩
  | .indexOverflow op pc => some ⟨6#3, some op, pc⟩
  | .closed => none

end Sys2Proof.Machine
end

