-- ==== Sys2Proof/Machine/Step.lean ====
section
/-!
DEFINITION. The machine's step: one iteration of the scheduler, which runs one instruction (60_exceptions.md
R310, 00_scope.md R6; log entry 1).
-/

namespace Sys2Proof.Machine

/-- One step: one iteration of the scheduler's loop (R310). -/
def step (s : State) : Host.Outcome State Fault Refusal := Sys2Proof.Machine.iteration s

/-- `s` with the instruction whose bits are `w` where the next step fetches it, and inputs under which that
step runs it (log entry 17). -/
def State.withFetchWord (s : State) (nbits w : Nat) : State :=
  (s.fetchable.placeAtPc (tableBytes nbits w)).letRun

end Sys2Proof.Machine
end

