-- ==== Sys2Proof/Machine/Run.lean ====
section
/-!
DEFINITION. Runs: the boot order (70_reset_and_hazards.md R403), and the infinite runs in which the environment
meets its constraints (60_exceptions.md R313, R325).
-/

namespace Sys2Proof.Machine

/-- `n` iterations of the scheduler, up to the first stop (R310, R314). -/
def runFor (n : Nat) (s : State) : Result :=
  match n with
  | 0 => .next s
  | k + 1 => andThen (step s) (runFor k)

/-- The whole boot order and then `n` iterations: no iteration without an `Ok` from each load (R403, R325). -/
def bootAndRun (s : State) (programs : List (List Byte)) (n : Nat) : Result :=
  andThen (boot s programs) (runFor n)

/-- The environment's answers in every iteration of an infinite run; iteration `n` reads line `n` (R313). -/
abbrev Environment := Nat → EnvInput

/-- `r` is an infinite run against `e`: it starts after a boot, and no iteration stops (R314). -/
def IsRun (e : Environment) (r : Nat → State) : Prop :=
  (∃ s programs, boot s programs = .next (r 0)) ∧ ∀ n, step ((r n).facing (e n)) = .next (r (n + 1))

/-- Frame ticks occur infinitely often (R313, R325, D18). -/
def TicksForever (e : Environment) : Prop := ∀ n, ∃ m, n ≤ m ∧ (e m).frameDue = true

/-- The deterministic schedule with the parameter `CYCLES_PER_FRAME` = `c`: a tick after every `c`-th cycle
(R7, R313). -/
def TicksEvery (c : Nat) (e : Environment) : Prop :=
  ∀ n, (e n).frameDue = decide ((n + 1) % c = 0)

/-- Is the instruction a `Dxyn`? -/
def isDraw : Instr → Bool
  | .drw _ _ _ => true
  | _ => false

/-- Is the next instruction a `Dxyn` that stalls (R193)? -/
def State.stalls (s : State) : Bool := ((fetch s).bind decode).any isDraw && s.throttled

/-- No `Dxyn` is stalled on infinitely many consecutive executions (R313, R325, D17). A stall repeats the same
`Dxyn` at once, so the executions are consecutive iterations. -/
def StallsEnd (e : Environment) (r : Nat → State) : Prop :=
  ∀ n, ∃ m, n ≤ m ∧ ((r m).facing (e m)).stalls = false

/-- An infinite run whose environment meets every constraint of R313. -/
def FairRun (e : Environment) (r : Nat → State) : Prop := IsRun e r ∧ TicksForever e ∧ StallsEnd e r

end Sys2Proof.Machine
end

