-- ==== Sys2Proof/Safety.lean ====
section
/-!
DEFINITION. What counts as a safe run, in the terms the claims use: the invariant of every reachable state,
what each instruction may write, when it halts, and what a sprite covers.
-/

namespace Sys2Proof.Machine

/-- The memory list is in its canonical form (log entry 15). -/
abbrev State.memWf (s : State) : Prop := Memory.wf s.cfg.font s.mem

/-- The invariant: memory in its form, `pc` at most 0x10FE (R27), every return address at most 0x1000
(R120). -/
abbrev State.Inv (s : State) : Prop :=
  s.memWf ∧ s.pc.toNat ≤ 0x10FE ∧ ∀ k : Fin 16, s.stack[k].toNat ≤ 0x1000

/-- The elements of R20 an instruction may write, apart from `pc`. -/
inductive Elem where
  | memory
  | reg (r : Reg)
  | index
  | stack
  | sp
  | delayTimer
  | soundTimer
  | keys
  | gfx
deriving DecidableEq, Repr

/-- `v[0]` to `v[x]`. -/
def regsUpTo (x : Reg) : List Elem := ((List.finRange 16).filter (· ≤ x)).map Elem.reg

/-- What each instruction may write, apart from `pc`: the column "written by" of R20, and R22 and R23 for
the registers. No instruction writes `keys` (R31). -/
def writes : Instr → List Elem
  | .cls => [.gfx]
  | .ret => [.sp]
  | .jp _ => []
  | .call _ => [.stack, .sp]
  | .seImm _ _ => []
  | .sneImm _ _ => []
  | .seReg _ _ => []
  | .ldImm x _ => [.reg x]
  | .addImm x _ => [.reg x]
  | .ldReg x _ => [.reg x]
  | .orReg x _ => [.reg x, .reg 15]
  | .andReg x _ => [.reg x, .reg 15]
  | .xorReg x _ => [.reg x, .reg 15]
  | .addReg x _ => [.reg x, .reg 15]
  | .subReg x _ => [.reg x, .reg 15]
  | .shrReg x _ => [.reg x, .reg 15]
  | .subnReg x _ => [.reg x, .reg 15]
  | .shlReg x _ => [.reg x, .reg 15]
  | .sneReg _ _ => []
  | .ldI _ => [.index]
  | .jpV0 _ => []
  | .rnd x _ => [.reg x]
  | .drw _ _ _ => [.gfx, .reg 15]
  | .skp _ => []
  | .sknp _ => []
  | .ldVxDT x => [.reg x]
  | .ldVxK x => [.reg x]
  | .ldDTVx _ => [.delayTimer]
  | .ldSTVx _ => [.soundTimer]
  | .addIVx _ => [.index]
  | .ldFVx _ => [.index]
  | .ldBVx _ => [.memory]
  | .storeRegs _ => [.memory, .index]
  | .loadRegs x => .index :: regsUpTo x

/-- The halt an instruction raises in a state, by the conditions of R301; `none` where it does not halt.
The stall of a throttled `Dxyn` comes before its check (R303). -/
def haltOf (i : Instr) (s : State) : Option Fault :=
  match i with
  | .ret => if s.sp.val = 0 then some (.stackUnderflow (encode i) s.pc) else none
  | .call _ => if s.sp.val = 16 then some (.stackOverflow (encode i) s.pc) else none
  | .drw _ _ n =>
    if ¬(s.cfg.drawThrottle = true ∧ s.input.stall = true) ∧ 0 < n.toNat ∧ s.i.toNat + n.toNat - 1 > 0xFFF
    then some (.memoryOutOfRange (encode i) s.pc) else none
  | .skp x => if s.v[x].toNat > 0xF then some (.keyOutOfRange (encode i) s.pc) else none
  | .sknp x => if s.v[x].toNat > 0xF then some (.keyOutOfRange (encode i) s.pc) else none
  | .addIVx x =>
    if s.i.toNat + s.v[x].toNat > 0xFFFF then some (.indexOverflow (encode i) s.pc) else none
  | .ldBVx _ => if s.i.toNat + 2 > 0xFFF then some (.memoryOutOfRange (encode i) s.pc) else none
  | .storeRegs x =>
    if s.i.toNat + x.val > 0xFFF then some (.memoryOutOfRange (encode i) s.pc) else none
  | .loadRegs x =>
    if s.i.toNat + x.val > 0xFFF then some (.memoryOutOfRange (encode i) s.pc) else none
  | .cls | .jp _ | .seImm _ _ | .sneImm _ _ | .seReg _ _ | .ldImm _ _ | .addImm _ _ | .ldReg _ _
  | .orReg _ _ | .andReg _ _ | .xorReg _ _ | .addReg _ _ | .subReg _ _ | .shrReg _ _ | .subnReg _ _
  | .shlReg _ _ | .sneReg _ _ | .ldI _ | .jpV0 _ | .rnd _ _ | .ldVxDT _ | .ldVxK _ | .ldDTVx _
  | .ldSTVx _ | .ldFVx _ => none

/-- Does the sprite of `Dxyn` in state `s` have a set pixel at column `px`, row `py` of the screen? The
start wraps, the body is clipped at the screen's edge, row `r` is the byte at `i + r`, and bit 7 is the
leftmost pixel (R191, R192). -/
def spriteCovers (s : State) (x y : Reg) (n : Nat) (px py : Nat) : Bool :=
  let x0 := s.v[x].toNat % 64
  let y0 := s.v[y].toNat % 32
  decide (px < 64) && decide (py < 32) && decide (x0 ≤ px) && decide (px < x0 + 8) &&
    decide (y0 ≤ py) && decide (py < y0 + n) &&
    (s.readByte (s.i.toNat + (py - y0))).getLsbD (7 - (px - x0))

/-- The state with other answers of the environment: other key levels, other coming inputs, another number
of the coming iteration. -/
def State.withEnvironment (s : State) (keys : Keys) (env : List EnvInput) (k : Nat) : State :=
  { s with keys := keys, env := env, drawIndex := k }

end Sys2Proof.Machine
end

