-- ==== Sys2Proof/Certificates/Slice0/Obligations.lean ====
section
/-!
DEFINITION. The statements for the provers, each from the rules of spec/ that its docstring names. A
statement that rests on a decision the spec marks as its own (D<n>) or on a choice of the model says so.
-/

open Sys2Proof Sys2Proof.Machine

/-! ## Encoding, fetch, decode -/

/-- Every instruction is well formed, and decoding its word gives it back, with every operand at every
value. Derived from R74 to R76. -/
def Obligations.DecodeOfEncodeIsTheInstruction : Prop :=
  ∀ i : Instr, i.wellFormed = true ∧ decode (encode i) = some i

/-- No instruction has a don't-care bit: the word an instruction was decoded from is its encoding. Derived
from R76. -/
def Obligations.EncodeOfDecodeIsTheWord : Prop :=
  ∀ (w : Word) (i : Instr), decode w = some i → encode i = w

/-- The decoder follows the opcode table: a decoded word hits its instruction's own row, a refused word
hits no row, and no word hits two. Derived from R74. -/
def Obligations.DecodeFollowsTheOpcodeTable : Prop :=
  ∀ w : Word,
    (∀ i, decode w = some i → ∃ r, opcodeTable[i.rowIndex]? = some r ∧ r.hits w = true) ∧
    (decode w = none ↔ ∀ r ∈ opcodeTable, r.hits w = false) ∧
    opcodeTable.Pairwise fun a b => ¬(a.hits w = true ∧ b.hits w = true)

/-- The refused words are those R75 lists by major opcode. Derived from R75 (which rests on D26 for major
opcode 0). -/
def Obligations.RefusedWordsAreTheUnknownOpcodes : Prop :=
  ∀ w : Word, decode w = none ↔ wellFormedWord w = false

/-- Words of the spec's own examples decode to the instructions they stand for, one or more of each family
(a sanity check). Derived from the examples of files 41 to 45. -/
def Obligations.WordsOfTheSpecDecode : Prop :=
  decode 0x00E0#16 = some .cls ∧ decode 0x00EE#16 = some .ret ∧
  decode 0x2210#16 = some (.call 0x210#12) ∧ decode 0x4207#16 = some (.sneImm 2 0x07#8) ∧
  decode 0x9340#16 = some (.sneReg 3 4) ∧ decode 0x6A2F#16 = some (.ldImm 0xA 0x2F#8) ∧
  decode 0x8017#16 = some (.subnReg 0 1) ∧ decode 0x801E#16 = some (.shlReg 0 1) ∧
  decode 0xA300#16 = some (.ldI 0x300#12) ∧ decode 0xC30F#16 = some (.rnd 3 0x0F#8) ∧
  decode 0xD123#16 = some (.drw 1 2 3#4) ∧ decode 0xE59E#16 = some (.skp 5) ∧
  decode 0xE5A1#16 = some (.sknp 5) ∧ decode 0xF107#16 = some (.ldVxDT 1) ∧
  decode 0xF255#16 = some (.storeRegs 2) ∧ decode 0xF265#16 = some (.loadRegs 2)

/-- The fetched word is big-endian, at any `pc`, even or odd. Derived from R51; that an odd `pc` is fetched is the
spec's own decision D4 (log entry 18). -/
def Obligations.FetchReadsTheBigEndianWord : Prop :=
  ∀ s : State, s.pc.toNat + 1 ≤ 0xFFF →
    ∃ w, fetch s = some w ∧
      w.toNat = 256 * (s.readByte s.pc.toNat).toNat + (s.readByte (s.pc.toNat + 1)).toNat

/-- A fetch past the end of memory halts, whatever the state. Derived: the spec's own decisions D4 and D6
on R100. -/
def Obligations.FetchPastTheEndHalts : Prop :=
  ∀ s : State, 0xFFF ≤ s.pc.toNat → cycle s = .fault (.fetchOutOfRange s.pc)

/-- A fetched word that decodes to nothing halts the cycle, with the word and the `pc`: R101. -/
def Obligations.UnknownOpcodeHalts : Prop :=
  ∀ (s : State) (w : Word), fetch s = some w → decode w = none →
    cycle s = .fault (.unknownOpcode w s.pc)

/-! ## The scheduler, the frame tick, the poll -/

/-- A step runs the decoded instruction: with the window open, a step is the key poll, then `exec` of the
instruction decoded at `pc`, then the end of the iteration. Derived: the loop of 60_exceptions.md section 3
with the spec's decisions D18, D24 and D27; that one step is one iteration is the model's choice (log entry
1). -/
def Obligations.StepRunsTheDecodedInstruction : Prop :=
  ∀ (s : State) (w : Word) (i : Instr),
    s.input.isOpen = true → fetch s = some w → decode w = some i →
    s.poll = { s with keys := s.input.keysIn } ∧
    step s = mapNext State.endIteration (exec i s.poll)

/-- The end of an iteration: a due tick counts both timers down, not below 0, and flushes the framebuffer;
without one they stay; the next line of inputs comes up. Derived: the loop of 60_exceptions.md section 3
with D18; the inputs' list is the model's choice (log entry 2), `frameOut` too (log entry 16). -/
def Obligations.IterationEndsWithTheDueTick : Prop :=
  ∀ s : State,
    (s.input.frameDue = true → s.endIteration = { s with
      delayTimer := BitVec.ofNat 8 (s.delayTimer.toNat - 1)
      soundTimer := BitVec.ofNat 8 (s.soundTimer.toNat - 1)
      frameOut := some s.gfx
      env := s.env.tail
      drawIndex := s.drawIndex + 1 }) ∧
    (s.input.frameDue = false → s.endIteration = { s with
      env := s.env.tail
      drawIndex := s.drawIndex + 1 })

/-- A closed window ends the run before any cycle. Derived: the spec's decision D24. -/
def Obligations.ClosedWindowEndsTheRun : Prop :=
  ∀ s : State, s.input.isOpen = false → step s = .fault .closed

/-- Frame ticks: after `n` of them each timer is `n` less, never below 0, the display has the framebuffer
and nothing else changed; and no instruction decrements a timer. Derived from R311 and R312: that `frameOut`
keeps the flushed frame is the model's choice (log entry 16). -/
def Obligations.FrameTicksCountDownToZero : Prop :=
  (∀ (n : Nat) (s : State),
    let t := State.frameTick^[n] s
    t.delayTimer.toNat = s.delayTimer.toNat - n ∧
    t.soundTimer.toNat = s.soundTimer.toNat - n ∧
    (0 < n → t.frameOut = some s.gfx) ∧
    t = { s with delayTimer := t.delayTimer, soundTimer := t.soundTimer, frameOut := t.frameOut }) ∧
  ∀ (i : Instr) (s t : State), exec i s = .next t →
    (t.delayTimer = s.delayTimer ∨ ∃ x, i = .ldDTVx x ∧ t.delayTimer = s.v[x]) ∧
    (t.soundTimer = s.soundTimer ∨ ∃ x, i = .ldSTVx x ∧ t.soundTimer = s.v[x])

/-- After every step the keys are what the poll read, whatever the instruction did. Derived from R321 and
D19. -/
def Obligations.StepPollsTheKeys : Prop :=
  ∀ s t : State, step s = .next t → t.keys = s.input.keysIn

/-! ## Control transfer -/

/-- `1nnn`: R121. -/
def Obligations.JpSetsPc : Prop :=
  ∀ (nnn : Addr12) (s : State),
    (encode (.jp nnn)).toNat = 0x1000 + nnn.toNat ∧
    exec (.jp nnn) s = .next { s with pc := nnn.setWidth 16 }

/-- `2nnn` below the stack's depth stores the return address at `stack[sp]`, then increments `sp`, and
jumps; nothing else changes. Derived: C6 and D3 of the spec. -/
def Obligations.CallPushesTheReturnAddress : Prop :=
  ∀ (nnn : Addr12) (s : State), s.sp.val < 16 →
    ∃ t, exec (.call nnn) s = .next t ∧
      t.sp.val = s.sp.val + 1 ∧
      (∀ k : Fin 16, t.stack[k] = if k.val = s.sp.val then s.pc + 2#16 else s.stack[k]) ∧
      t = { s with stack := t.stack, sp := t.sp, pc := nnn.setWidth 16 }

/-- `00EE` with an entry on the stack goes to the newest entry and leaves it in place; nothing else
changes. Derived: C6 and D3 of the spec. -/
def Obligations.RetPopsTheReturnAddress : Prop :=
  ∀ (s : State) (k : Fin 16), s.sp.val = k.val + 1 →
    ∃ t, exec .ret s = .next t ∧
      t.sp.val = k.val ∧ t = { s with sp := t.sp, pc := s.stack[k] }

/-- A call and the return after it come back to the instruction after the call, with `sp` as before.
Derived from the worked example E4. -/
def Obligations.CallThenRetReturns : Prop :=
  ∀ (nnn : Addr12) (s : State), s.sp.val < 16 →
    ∃ t u, exec (.call nnn) s = .next t ∧ exec .ret t = .next u ∧
      u = { s with stack := t.stack, pc := s.pc + 2#16 }

/-- `3xnn` and `4xnn`: R123, R124. -/
def Obligations.SkipsOnAnImmediate : Prop :=
  ∀ (x : Reg) (nn : Byte) (s : State),
    (encode (.seImm x nn)).toNat = 0x3000 + 0x100 * x.val + nn.toNat ∧
    exec (.seImm x nn) s =
      .next { s with pc := if s.v[x] = nn then s.pc + 2#16 + 2#16 else s.pc + 2#16 } ∧
    (encode (.sneImm x nn)).toNat = 0x4000 + 0x100 * x.val + nn.toNat ∧
    exec (.sneImm x nn) s =
      .next { s with pc := if s.v[x] ≠ nn then s.pc + 2#16 + 2#16 else s.pc + 2#16 }

/-- `5xy0` and `9xy0`, whose other low nibbles are unknown words: R125, R126. -/
def Obligations.SkipsOnRegisters : Prop :=
  (∀ (x y : Reg) (s : State),
    (encode (.seReg x y)).toNat = 0x5000 + 0x100 * x.val + 0x10 * y.val ∧
    exec (.seReg x y) s =
      .next { s with pc := if s.v[x] = s.v[y] then s.pc + 2#16 + 2#16 else s.pc + 2#16 } ∧
    (encode (.sneReg x y)).toNat = 0x9000 + 0x100 * x.val + 0x10 * y.val ∧
    exec (.sneReg x y) s =
      .next { s with pc := if s.v[x] ≠ s.v[y] then s.pc + 2#16 + 2#16 else s.pc + 2#16 }) ∧
  ∀ w : Word, (opH w = 0x5#4 ∨ opH w = 0x9#4) → opN w ≠ 0#4 → decode w = none

/-- `Bnnn` goes to the exact sum, neither wrapped nor masked; nothing else changes. Derived: the spec's
decision D4. -/
def Obligations.JpV0GoesToTheUnmaskedSum : Prop :=
  ∀ (nnn : Addr12) (s : State),
    ∃ t, exec (.jpV0 nnn) s = .next t ∧
      t.pc.toNat = nnn.toNat + s.v[0].toNat ∧ t = { s with pc := t.pc }

/-! ## Registers and ALU -/

/-- `6xnn` and `8xy0`: R142, R144. -/
def Obligations.LoadsWriteOneRegister : Prop :=
  ∀ (x y : Reg) (nn : Byte) (s : State),
    (encode (.ldImm x nn)).toNat = 0x6000 + 0x100 * x.val + nn.toNat ∧
    exec (.ldImm x nn) s = .next { s with v := s.v.set x nn, pc := s.pc + 2#16 } ∧
    (encode (.ldReg x y)).toNat = 0x8000 + 0x100 * x.val + 0x10 * y.val ∧
    exec (.ldReg x y) s = .next { s with v := s.v.set x s.v[y], pc := s.pc + 2#16 }

/-- `7xnn` wraps modulo 256 and changes no flag: R143. -/
def Obligations.AddImmWrapsWithoutAFlag : Prop :=
  ∀ (x : Reg) (nn : Byte) (s : State),
    (encode (.addImm x nn)).toNat = 0x7000 + 0x100 * x.val + nn.toNat ∧
    ∃ t, exec (.addImm x nn) s = .next t ∧
      (∀ r : Reg, t.v[r].toNat = if r = x then (s.v[x].toNat + nn.toNat) % 256 else s.v[r].toNat) ∧
      t = { s with v := t.v, pc := s.pc + 2#16 }

/-- `8xy1`, `8xy2`, `8xy3` write the result and reset VF, which is 0 after also when `x` is 0xF: R145,
R146, R147. -/
def Obligations.LogicResetsVF : Prop :=
  ∀ (x y : Reg) (s : State),
    ((encode (.orReg x y)).toNat = 0x8001 + 0x100 * x.val + 0x10 * y.val ∧
      ∃ t, exec (.orReg x y) s = .next t ∧
        (∀ r : Reg, t.v[r] = if r = 15 then 0#8 else if r = x then s.v[x] ||| s.v[y] else s.v[r]) ∧
        t = { s with v := t.v, pc := s.pc + 2#16 }) ∧
    ((encode (.andReg x y)).toNat = 0x8002 + 0x100 * x.val + 0x10 * y.val ∧
      ∃ t, exec (.andReg x y) s = .next t ∧
        (∀ r : Reg, t.v[r] = if r = 15 then 0#8 else if r = x then s.v[x] &&& s.v[y] else s.v[r]) ∧
        t = { s with v := t.v, pc := s.pc + 2#16 }) ∧
    ((encode (.xorReg x y)).toNat = 0x8003 + 0x100 * x.val + 0x10 * y.val ∧
      ∃ t, exec (.xorReg x y) s = .next t ∧
        (∀ r : Reg, t.v[r] = if r = 15 then 0#8 else if r = x then s.v[x] ^^^ s.v[y] else s.v[r]) ∧
        t = { s with v := t.v, pc := s.pc + 2#16 })

/-- `8xy4`: the sum modulo 256, and VF the carry, which wins when `x` is 0xF: R148. -/
def Obligations.AddRegSetsTheCarry : Prop :=
  ∀ (x y : Reg) (s : State),
    (encode (.addReg x y)).toNat = 0x8004 + 0x100 * x.val + 0x10 * y.val ∧
    ∃ t, exec (.addReg x y) s = .next t ∧
      (∀ r : Reg, t.v[r].toNat =
        if r = 15 then (if 255 < s.v[x].toNat + s.v[y].toNat then 1 else 0)
        else if r = x then (s.v[x].toNat + s.v[y].toNat) % 256 else s.v[r].toNat) ∧
      t = { s with v := t.v, pc := s.pc + 2#16 }

/-- `8xy5` and `8xy7`: the difference modulo 256, and VF is NOT borrow, 1 on equal operands: R149, R151. -/
def Obligations.SubtractionsSetNotBorrow : Prop :=
  ∀ (x y : Reg) (s : State),
    ((encode (.subReg x y)).toNat = 0x8005 + 0x100 * x.val + 0x10 * y.val ∧
      ∃ t, exec (.subReg x y) s = .next t ∧
        (∀ r : Reg, t.v[r].toNat =
          if r = 15 then (if s.v[x].toNat ≥ s.v[y].toNat then 1 else 0)
          else if r = x then (s.v[x].toNat + 256 - s.v[y].toNat) % 256 else s.v[r].toNat) ∧
        t = { s with v := t.v, pc := s.pc + 2#16 }) ∧
    ((encode (.subnReg x y)).toNat = 0x8007 + 0x100 * x.val + 0x10 * y.val ∧
      ∃ t, exec (.subnReg x y) s = .next t ∧
        (∀ r : Reg, t.v[r].toNat =
          if r = 15 then (if s.v[y].toNat ≥ s.v[x].toNat then 1 else 0)
          else if r = x then (s.v[y].toNat + 256 - s.v[x].toNat) % 256 else s.v[r].toNat) ∧
        t = { s with v := t.v, pc := s.pc + 2#16 })

/-- `8xy6` and `8xyE` under either setting of SHIFT_USES_VY: the shifted source, and VF the bit shifted
out. Derived: for `x` = `y` = 0xF the flag is of the old VF by the spec's decision D11. -/
def Obligations.ShiftsSetTheBitShiftedOut : Prop :=
  ∀ (x y : Reg) (s : State),
    let src := if s.cfg.shiftUsesVy then s.v[y] else s.v[x]
    (∃ t, exec (.shrReg x y) s = .next t ∧
      (∀ r : Reg, t.v[r].toNat =
        if r = 15 then src.toNat % 2 else if r = x then src.toNat / 2 else s.v[r].toNat) ∧
      t = { s with v := t.v, pc := s.pc + 2#16 }) ∧
    (∃ t, exec (.shlReg x y) s = .next t ∧
      (∀ r : Reg, t.v[r].toNat =
        if r = 15 then src.toNat / 128 else if r = x then 2 * src.toNat % 256 else s.v[r].toNat) ∧
      t = { s with v := t.v, pc := s.pc + 2#16 })

/-- `Cxnn` writes the environment's byte ANDed with `nn`, whatever that byte is. Derived: the byte is a free
input by the spec's decision D16 (log entry 3). -/
def Obligations.RndMasksTheRandomByte : Prop :=
  ∀ (x : Reg) (nn : Byte) (s : State),
    exec (.rnd x nn) s = .next { s with v := s.v.set x (s.input.rnd &&& nn), pc := s.pc + 2#16 }

/-! ## Index register and memory -/

/-- `Annn`: R170. -/
def Obligations.LdISetsTheIndex : Prop :=
  ∀ (nnn : Addr12) (s : State),
    (encode (.ldI nnn)).toNat = 0xA000 + nnn.toNat ∧
    exec (.ldI nnn) s = .next { s with i := nnn.setWidth 16, pc := s.pc + 2#16 }

/-- `Fx29` points `i` at `v[x] * 5 + 0x50`, not masked: R172. -/
def Obligations.LdFPointsAtTheCharacter : Prop :=
  ∀ (x : Reg) (s : State),
    (encode (.ldFVx x)).toNat = 0xF029 + 0x100 * x.val ∧
    ∃ t, exec (.ldFVx x) s = .next t ∧
      t.i.toNat = s.v[x].toNat * 5 + 0x50 ∧ t = { s with i := t.i, pc := s.pc + 2#16 }

/-- `Fx1E` with a sum of 16 bits: `i` is the exact sum, above 0xFFF too, and no flag changes. Derived: the
range of `i` is the spec's decision D5. -/
def Obligations.AddIAddsWithoutAFlag : Prop :=
  ∀ (x : Reg) (s : State), s.i.toNat + s.v[x].toNat ≤ 0xFFFF →
    ∃ t, exec (.addIVx x) s = .next t ∧
      t.i.toNat = s.i.toNat + s.v[x].toNat ∧ t = { s with i := t.i, pc := s.pc + 2#16 }

/-- `Fx33` stores the three decimal digits, hundreds first, and every other byte stays; it halts, and
writes nothing, when `i + 2` is past 0xFFF: R173. The premise is the invariant on memory. -/
def Obligations.LdBStoresTheDecimalDigits : Prop :=
  ∀ (x : Reg) (s : State), s.memWf →
    (encode (.ldBVx x)).toNat = 0xF033 + 0x100 * x.val ∧
    (0xFFF < s.i.toNat + 2 →
      exec (.ldBVx x) s = .fault (.memoryOutOfRange (encode (.ldBVx x)) s.pc)) ∧
    (s.i.toNat + 2 ≤ 0xFFF →
      ∃ t, exec (.ldBVx x) s = .next t ∧
        (t.readByte s.i.toNat).toNat = s.v[x].toNat / 100 ∧
        (t.readByte (s.i.toNat + 1)).toNat = s.v[x].toNat / 10 % 10 ∧
        (t.readByte (s.i.toNat + 2)).toNat = s.v[x].toNat % 10 ∧
        (∀ a, a < s.i.toNat ∨ s.i.toNat + 2 < a → t.readByte a = s.readByte a) ∧
        t = { s with mem := t.mem, pc := s.pc + 2#16 })

/-- `Fx55` stores `v[0]` to `v[x]` at `i` up, every other byte stays, and `i` advances by `x + 1` under
LDST_INCREMENTS_I; it halts, and changes nothing, when `i + x` is past 0xFFF: R174. The premise is the
invariant on memory. -/
def Obligations.StoreRegsStoresTheBlock : Prop :=
  ∀ (x : Reg) (s : State), s.memWf →
    (encode (.storeRegs x)).toNat = 0xF055 + 0x100 * x.val ∧
    (0xFFF < s.i.toNat + x.val →
      exec (.storeRegs x) s = .fault (.memoryOutOfRange (encode (.storeRegs x)) s.pc)) ∧
    (s.i.toNat + x.val ≤ 0xFFF →
      ∃ t, exec (.storeRegs x) s = .next t ∧
        (∀ k : Reg, k ≤ x → t.readByte (s.i.toNat + k.val) = s.v[k]) ∧
        (∀ a, a < s.i.toNat ∨ s.i.toNat + x.val < a → t.readByte a = s.readByte a) ∧
        t.i.toNat = (if s.cfg.ldstIncrementsI then s.i.toNat + x.val + 1 else s.i.toNat) ∧
        t = { s with mem := t.mem, i := t.i, pc := s.pc + 2#16 })

/-- `Fx65` loads `v[0]` to `v[x]` from `i` up, the other registers stay, and `i` advances by `x + 1` under
LDST_INCREMENTS_I; it halts, with no register written, when `i + x` is past 0xFFF: R175. -/
def Obligations.LoadRegsLoadsTheBlock : Prop :=
  ∀ (x : Reg) (s : State),
    (encode (.loadRegs x)).toNat = 0xF065 + 0x100 * x.val ∧
    (0xFFF < s.i.toNat + x.val →
      exec (.loadRegs x) s = .fault (.memoryOutOfRange (encode (.loadRegs x)) s.pc)) ∧
    (s.i.toNat + x.val ≤ 0xFFF →
      ∃ t, exec (.loadRegs x) s = .next t ∧
        (∀ k : Reg, t.v[k] = if k ≤ x then s.readByte (s.i.toNat + k.val) else s.v[k]) ∧
        t.i.toNat = (if s.cfg.ldstIncrementsI then s.i.toNat + x.val + 1 else s.i.toNat) ∧
        t = { s with v := t.v, i := t.i, pc := s.pc + 2#16 })

/-- `Fx65` undoes `Fx55`: after a store, a load of the same block from the same `i` gives every register
its value again. Derived from R174 and R175 ("inverse of `Fx55`"). -/
def Obligations.LoadRegsUndoesStoreRegs : Prop :=
  ∀ (x : Reg) (s t : State) (w : RegFile), s.memWf → exec (.storeRegs x) s = .next t →
    (∀ k : Reg, x < k → w[k] = s.v[k]) →
    ∃ u, exec (.loadRegs x) { t with i := s.i, v := w } = .next u ∧ u.v = s.v

/-- `Fx33` then `F265` puts three decimal digits of the value into `v[0]` to `v[2]`. Derived from R173 and
R175, as in the program P2. -/
def Obligations.BcdDigitsLoadBack : Prop :=
  ∀ (x : Reg) (s t : State), s.memWf → exec (.ldBVx x) s = .next t →
    ∃ u, exec (.loadRegs 2) t = .next u ∧
      u.v[0].toNat ≤ 2 ∧ u.v[1].toNat ≤ 9 ∧ u.v[2].toNat ≤ 9 ∧
      100 * u.v[0].toNat + 10 * u.v[1].toNat + u.v[2].toNat = s.v[x].toNat

/-- A store is seen by the very next fetch: the word fetched where `Fx55` stored is `v[0]` and `v[1]`.
Derived from R61. -/
def Obligations.StoredBytesAreFetched : Prop :=
  ∀ (x : Reg) (s t : State), s.memWf → 1 ≤ x.val → exec (.storeRegs x) s = .next t →
    fetch { t with pc := s.i } = some (s.v[0] ++ s.v[1])

/-! ## Framebuffer -/

/-- `00E0` clears every cell, whatever the throttle: R190. -/
def Obligations.ClsClearsEveryCell : Prop :=
  (encode .cls).toNat = 0x00E0 ∧
  ∀ s : State, ∃ t, exec .cls s = .next t ∧
    (∀ k, k < 2048 → gfxCell t.gfx k = false) ∧
    t = { s with gfx := t.gfx, pc := s.pc + 2#16 }

/-- `Dxyn` that neither stalls nor reads past 0xFFF: every cell of the screen is XORed with the sprite's
pixel there, VF says whether a set cell was turned off, and nothing else changes. Derived: the spec's
decisions D12, D13 and D15; the sprite's bit order is from general knowledge (log entry 10). -/
def Obligations.DrwXorsTheSprite : Prop :=
  ∀ (x y : Reg) (n : Nibble) (s : State),
    (s.cfg.drawThrottle = false ∨ s.input.stall = false) →
    (n = 0#4 ∨ s.i.toNat + n.toNat - 1 ≤ 0xFFF) →
    ∃ t, exec (.drw x y n) s = .next t ∧
      (∀ px py, px < 64 → py < 32 →
        pixel t.gfx px py = (pixel s.gfx px py ^^ spriteCovers s x y n.toNat px py)) ∧
      (t.v[15] = 0#8 ∨ t.v[15] = 1#8) ∧
      (t.v[15] = 1#8 ↔
        ∃ px py, spriteCovers s x y n.toNat px py = true ∧ pixel s.gfx px py = true) ∧
      (∀ r : Reg, r ≠ 15 → t.v[r] = s.v[r]) ∧
      t = { s with gfx := t.gfx, v := t.v, pc := s.pc + 2#16 }

/-- A throttled `Dxyn` changes nothing, `pc` included, and does not check its range. Derived: the spec's
decisions D9 and D17 (log entry 4). -/
def Obligations.ThrottledDrwStalls : Prop :=
  ∀ (x y : Reg) (n : Nibble) (s : State),
    s.cfg.drawThrottle = true → s.input.stall = true → exec (.drw x y n) s = .next s

/-- Drawing the same sprite twice at the same place restores the framebuffer; on a blank screen the first
draw does not collide, and the second collides exactly when the sprite has a set pixel on the screen. Derived
from R191's corner case and E7, under the decisions D12 and D13. -/
def Obligations.DrawingTwiceRestoresTheScreen : Prop :=
  ∀ (x y : Reg) (n : Nibble) (s t : State),
    x ≠ 15 → y ≠ 15 → (s.cfg.drawThrottle = false ∨ s.input.stall = false) →
    exec (.drw x y n) s = .next t →
    ∃ u, exec (.drw x y n) t = .next u ∧ u.gfx = s.gfx ∧
      ((∀ px py, pixel s.gfx px py = false) →
        t.v[15] = 0#8 ∧ (u.v[15] = 1#8 ↔ ∃ px py, spriteCovers s x y n.toNat px py = true))

/-! ## Keys and timers -/

/-- `Ex9E` and `ExA1` on a key code 0 to 0xF: one skips when the key is down, the other when it is up.
Derived: R210 and R211 without their halt, whose cause is named by D8. -/
def Obligations.KeySkipsTestThePolledKey : Prop :=
  ∀ (x k : Reg) (s : State), s.v[x].toNat = k.val →
    exec (.skp x) s =
      .next { s with pc := if s.keys[k] = true then s.pc + 2#16 + 2#16 else s.pc + 2#16 } ∧
    exec (.sknp x) s =
      .next { s with pc := if s.keys[k] = false then s.pc + 2#16 + 2#16 else s.pc + 2#16 }

/-- `Fx07`, `Fx15`, `Fx18` read and set the timers. Derived from R212, R214 and R215. -/
def Obligations.TimerMoves : Prop :=
  ∀ (x : Reg) (s : State),
    (encode (.ldVxDT x)).toNat = 0xF007 + 0x100 * x.val ∧
    exec (.ldVxDT x) s = .next { s with v := s.v.set x s.delayTimer, pc := s.pc + 2#16 } ∧
    (encode (.ldDTVx x)).toNat = 0xF015 + 0x100 * x.val ∧
    exec (.ldDTVx x) s = .next { s with delayTimer := s.v[x], pc := s.pc + 2#16 } ∧
    (encode (.ldSTVx x)).toNat = 0xF018 + 0x100 * x.val ∧
    exec (.ldSTVx x) s = .next { s with soundTimer := s.v[x], pc := s.pc + 2#16 }

/-- `Fx0A` stalls while no key is down, and else takes the lowest-numbered pressed key: R213. -/
def Obligations.KeyWaitTakesTheLowestKey : Prop :=
  ∀ (x : Reg) (s : State),
    (encode (.ldVxK x)).toNat = 0xF00A + 0x100 * x.val ∧
    ((∀ k : Reg, s.keys[k] = false) → exec (.ldVxK x) s = .next s) ∧
    ∀ k : Reg, s.keys[k] = true → (∀ j : Reg, j < k → s.keys[j] = false) →
      exec (.ldVxK x) s =
        .next { s with v := s.v.set x (BitVec.ofNat 8 k.val), pc := s.pc + 2#16 }

/-! ## Halts -/

/-- An instruction halts exactly in the conditions listed, with the cause listed, and no instruction is
refused: so in every other state it answers a next state. Derived: the table of 60_exceptions.md section 1;
the causes, their names and the checks on `Dxyn`, the stack and `Fx1E` are the spec's decisions D5 to D9. -/
def Obligations.ExecHaltsExactlyAsListed : Prop :=
  ∀ (i : Instr) (s : State),
    (∀ f, exec i s = .fault f ↔ haltOf i s = some f) ∧ (∀ r, exec i s ≠ .refused r) ∧
    (haltOf i s = none → ∃ t, exec i s = .next t)

/-- A halting cycle reports a cause code 0 to 6, the fetched opcode (none exactly for the fetch's own halt,
code 1) and the `pc` of the halting instruction; and each cause has the code of R301's table. `Closed` is no
halt. Derived: the report's form and the codes are the spec's decision D8. -/
def Obligations.HaltReportsTheOpcodeAndPc : Prop :=
  (∀ (s : State) (f : Fault), cycle s = .fault f →
    ∃ sig, haltSignal f = some sig ∧ sig.opcode = fetch s ∧ sig.pc = s.pc ∧
      sig.cause.toNat ≤ 6 ∧ (sig.cause = 1#3 ↔ fetch s = none)) ∧
  ∀ op pc : Word,
    haltSignal (.unknownOpcode op pc) = some ⟨0#3, some op, pc⟩ ∧
    haltSignal (.fetchOutOfRange pc) = some ⟨1#3, none, pc⟩ ∧
    haltSignal (.memoryOutOfRange op pc) = some ⟨2#3, some op, pc⟩ ∧
    haltSignal (.stackOverflow op pc) = some ⟨3#3, some op, pc⟩ ∧
    haltSignal (.stackUnderflow op pc) = some ⟨4#3, some op, pc⟩ ∧
    haltSignal (.keyOutOfRange op pc) = some ⟨5#3, some op, pc⟩ ∧
    haltSignal (.indexOverflow op pc) = some ⟨6#3, some op, pc⟩ ∧
    haltSignal .closed = none

/-- A halt repeats: no halt condition reads the keys or the environment's inputs, so the same state with any
other keys and inputs halts the same way, except that a `Dxyn` may stall instead. Derived: 60_exceptions.md
section 1, under the spec's decisions D9 and D10. -/
def Obligations.HaltRepeatsUnderAnyInputs : Prop :=
  ∀ (s : State) (f : Fault) (keys : Keys) (env : List EnvInput) (k : Nat), cycle s = .fault f →
    cycle (s.withEnvironment keys env k) = .fault f ∨
    ((∃ w x y n, fetch s = some w ∧ decode w = some (.drw x y n)) ∧
      cycle (s.withEnvironment keys env k) = .next (s.withEnvironment keys env k))

/-! ## Rules of the whole machine -/

/-- The frame of every instruction: an instruction that answers a next state changes only the elements its
row of R20, R22 and R23 lists, and `pc`; every other register, the stack, the timers, the framebuffer and,
for an instruction that stores nothing, every byte of memory stay; and no instruction changes the keys, the
configuration, the coming inputs or the flushed frame. Derived from R20 to R23, R29 to R31; the coming inputs
(`env`, `drawIndex`) and the flushed frame (`frameOut`) are the model's own fields (log entries 2 and 16), which
R20 does not list. -/
def Obligations.ExecWritesOnlyItsElements : Prop :=
  ∀ (i : Instr) (s t : State), exec i s = .next t →
    (Elem.memory ∉ writes i → t.mem = s.mem ∧ ∀ a, t.readByte a = s.readByte a) ∧
    (∀ r : Reg, Elem.reg r ∉ writes i → t.v[r] = s.v[r]) ∧
    (Elem.index ∉ writes i → t.i = s.i) ∧
    (Elem.stack ∉ writes i → t.stack = s.stack) ∧
    (Elem.sp ∉ writes i → t.sp = s.sp) ∧
    (Elem.delayTimer ∉ writes i → t.delayTimer = s.delayTimer) ∧
    (Elem.soundTimer ∉ writes i → t.soundTimer = s.soundTimer) ∧
    (Elem.gfx ∉ writes i → t.gfx = s.gfx) ∧
    t.keys = s.keys ∧ t.cfg = s.cfg ∧ t.env = s.env ∧ t.drawIndex = s.drawIndex ∧
    t.frameOut = s.frameOut

/-- Where `pc` goes: by 2, by 4, to a jump's target, or nowhere, and then nothing else changed either.
Derived from R26, R106 and R411; the targets are those of R120, R121, R122 and R127, and that the sum of `Bnnn` is
not masked is the spec's decision D4 (log entry 18). -/
def Obligations.PcMovesByTheRules : Prop :=
  ∀ (i : Instr) (s t : State), exec i s = .next t →
    t.pc = s.pc + 2#16 ∨ t.pc = s.pc + 2#16 + 2#16 ∨
    (((∃ x, i = .ldVxK x) ∨ ∃ x y n, i = .drw x y n) ∧ t = s) ∨
    (∃ nnn, (i = .jp nnn ∨ i = .call nnn) ∧ t.pc.toNat = nnn.toNat) ∨
    (∃ nnn, i = .jpV0 nnn ∧ t.pc.toNat = nnn.toNat + s.v[0].toNat) ∨
    (i = .ret ∧ ∃ k : Fin 16, t.pc = s.stack[k])

/-- Every step keeps the invariant: memory in its canonical form, `pc` at most 0x10FE, every return address
at most 0x1000. Derived from R27 and R120; the canonical form is the model's own (log entry 15). -/
def Obligations.StepKeepsTheInvariant : Prop :=
  ∀ s t : State, s.Inv → step s = .next t → t.Inv

/-- A run starts in the invariant: reset, and every state a boot answers (`initialize()` of any aggregate under
any configuration, then loads that fit). Derived from 70_reset_and_hazards.md sections 1 and 2; the canonical form
of memory in the invariant is the model's own (log entry 15). -/
def Obligations.RunStartsInTheInvariant : Prop :=
  State.reset.Inv ∧
  ∀ (s t : State) (programs : List (List Byte)), boot s programs = .next t → t.Inv

/-- A step never changes the configuration, and uses up exactly one line of inputs. Derived from R21; the
line of inputs is the model's choice (log entry 2). -/
def Obligations.StepKeepsTheConfiguration : Prop :=
  ∀ s t : State, step s = .next t →
    t.cfg = s.cfg ∧ t.env = s.env.tail ∧ t.drawIndex = s.drawIndex + 1

/-- The random byte reaches `Cxnn` only and the stall `Dxyn` only, and that only under DRAW_THROTTLE: with
other coming inputs every other instruction does the same, `Cxnn` does the same if the random byte is the same,
and `Dxyn` does the same if the stall is the same. Derived from R105 (decisions D2, D16, D17). -/
def Obligations.InputsReachOnlyTheirReaders : Prop :=
  ∀ (i : Instr) (s : State) (env : List EnvInput) (k : Nat),
    let s' := s.withEnvironment s.keys env k
    ((∀ x nn, i ≠ .rnd x nn) ∨ s'.input.rnd = s.input.rnd) →
    ((∀ x y n, i ≠ .drw x y n) ∨ s.cfg.drawThrottle = false ∨ s'.input.stall = s.input.stall) →
    exec i s' = mapNext (fun t => t.withEnvironment t.keys env k) (exec i s)

/-- The keys reach `Ex9E`, `ExA1` and `Fx0A` only: with other keys every other instruction does the same.
Derived from R20's column "read by" and R31. -/
def Obligations.KeysReachOnlyTheirReaders : Prop :=
  ∀ (i : Instr) (s : State) (keys : Keys),
    (∀ x, i ≠ .skp x ∧ i ≠ .sknp x ∧ i ≠ .ldVxK x) →
    exec i { s with keys := keys } = mapNext (fun t => { t with keys := keys }) (exec i s)

/-- No instruction reads the sound timer: R30. With another value in it every instruction does the same, and
only `Fx18` replaces that value. Derived from R30. -/
def Obligations.SoundTimerIsNeverRead : Prop :=
  ∀ (i : Instr) (s : State) (b : Byte),
    ((∀ x, i ≠ .ldSTVx x) →
      exec i { s with soundTimer := b } = mapNext (fun t => { t with soundTimer := b }) (exec i s)) ∧
    ∀ x, exec (.ldSTVx x) { s with soundTimer := b } = exec (.ldSTVx x) s

/-! ## Reset and load -/

/-- `initialize()` zeroes every element, installs FONT at 0x50 and sets `pc` to 0x200, whatever state it is
called from: R400. -/
def Obligations.InitializeLeavesTheResetState : Prop :=
  ∀ s : State,
    let t := s.initialized
    (∀ r : Reg, t.v[r] = 0#8) ∧ t.i = 0#16 ∧ t.pc = 0x200#16 ∧ t.sp.val = 0 ∧
    (∀ k : Fin 16, t.stack[k] = 0#16) ∧ t.delayTimer = 0#8 ∧ t.soundTimer = 0#8 ∧
    (∀ k : Reg, t.keys[k] = false) ∧ (∀ k, k < 2048 → gfxCell t.gfx k = false) ∧
    (∀ k : Fin 80, t.readByte (0x50 + k.val) = s.cfg.font[k]) ∧
    (∀ a, a < 0x50 ∨ 0x9F < a → t.readByte a = 0#8) ∧ t.cfg = s.cfg ∧
    ∀ s' : State, s'.cfg = s.cfg →
      t = { s'.initialized with env := t.env, drawIndex := t.drawIndex, frameOut := t.frameOut }

/-- `load(bytes)`: more than 3584 bytes fail and change nothing; else `bytes[k]` is at `0x200 + k`, and
every other byte and every other element stay: R401. The premise is the invariant on memory. -/
def Obligations.LoadPlacesTheProgram : Prop :=
  ∀ (s : State) (bytes : List Byte), s.memWf →
    (3584 < bytes.length → s.load bytes = (.programTooLarge, s)) ∧
    (bytes.length ≤ 3584 →
      ∃ t, s.load bytes = (.ok, t) ∧
        (∀ k (h : k < bytes.length), t.readByte (0x200 + k) = bytes[k]) ∧
        (∀ a, a < 0x200 ∨ 0x200 + bytes.length ≤ a → t.readByte a = s.readByte a) ∧
        t = { s with mem := t.mem })

/-- The boot order: where every load fits, the scheduler runs from the state `initialize()` and the loads leave,
with the last program at 0x200; after a load that fails no iteration runs. Derived from R402, R403 and R325, with
the ruling I1 and the decision D23. -/
def Obligations.NoRunFollowsAFailedLoad : Prop :=
  ∀ (s : State) (programs : List (List Byte)) (n : Nat),
    ((∃ p ∈ programs, 3584 < p.length) → bootAndRun s programs n = .refused .failedLoad) ∧
    ((∀ p ∈ programs, p.length ≤ 3584) →
      ∃ t, boot s programs = .next t ∧ bootAndRun s programs n = runFor n t ∧
        t = { s.initialized with mem := t.mem } ∧
        ∀ p, programs.getLast? = some p → ∀ k (h : k < p.length), t.readByte (0x200 + k) = p[k])

/-! ## The environment and infinite runs -/

/-- The inputs of a step: the first listed line and none of the later ones, or, with no line listed, the free
values of that iteration. Derived from R320 and R313; the list and its counter are the model's choice (log entries
2 to 7). -/
def Obligations.StepReadsOneLineOfInputs : Prop :=
  (∀ (s : State) (e : EnvInput) (rest : List EnvInput), s.env = e :: rest →
    step s = mapNext (fun t => { t with env := rest }) (step (s.facing e))) ∧
  ∀ s : State, s.env = [] → step s = step (s.facing (freeInput s.drawIndex))

/-- In a run whose environment meets its constraints, from a point after which no `Fx15` is fetched the delay
timer comes to 0 and stays there. Derived from R413 and R313: that ticks occur for ever is the spec's assumption
D18, the premise `FairRun`. -/
def Obligations.FairRunDelayTimerRunsOut : Prop :=
  ∀ (e : Environment) (r : Nat → State) (n : Nat), FairRun e r →
    (∀ m w x, n ≤ m → fetch (r m) = some w → decode w ≠ some (.ldDTVx x)) →
    ∃ m, n ≤ m ∧ ∀ k, m ≤ k → (r k).delayTimer = 0#8

/-- In a run whose environment meets its constraints, a stalled `Dxyn` comes to an iteration in which it is
fetched again and does not stall; until then only the keys, the timers and the model's own fields changed.
Derived from R193 and R313: that a stall ends is the spec's assumption D17, the premise `FairRun`. -/
def Obligations.FairRunStalledDrawGoesOn : Prop :=
  ∀ (e : Environment) (r : Nat → State) (n : Nat), FairRun e r → ((r n).facing (e n)).stalls = true →
    ∃ m, n < m ∧ ((r m).facing (e m)).stalls = false ∧ fetch (r m) = fetch (r n) ∧
      r m = { r n with
        keys := (r m).keys
        delayTimer := (r m).delayTimer
        soundTimer := (r m).soundTimer
        env := (r m).env
        drawIndex := (r m).drawIndex
        frameOut := (r m).frameOut }
end

