-- ==== Sys2Proof/Laws/Memory.lean ====
section
/-!
SUPPORT. The laws of memory: a read after a write, and that every memory operation keeps the canonical
form.
-/

namespace Sys2Proof.Machine

variable {f : Font} {m : Memory} {a c : Nat} {b : Byte}

theorem Memory.wf_nil : Memory.wf f [] := by simp [Memory.wf]

theorem Memory.wf_cons {d : Host.Cell} :
    Memory.wf f (d :: m) ↔
      (∀ e ∈ m, d.1 < e.1) ∧ (d.1 < memSize ∧ d.2 ≠ Memory.unlisted f d.1) ∧ Memory.wf f m := by
  simp only [Memory.wf, List.map_cons, List.pairwise_cons, List.forall_mem_map, List.forall_mem_cons]
  tauto

/-- An address below every cell reads as an unlisted one. -/
theorem Memory.read_of_lt (h : ∀ e ∈ m, a < e.1) : Memory.read f m a = Memory.unlisted f a := by
  induction m with
  | nil => rfl
  | cons d rest ih =>
    have := h d (by simp)
    rw [Memory.read, if_neg (by omega), ih fun e he => h e (by simp [he])]

theorem Memory.read_cell_other {rest : Memory} (h : c ≠ a) :
    Memory.read f (Memory.cell f a b rest) c = Memory.read f rest c := by
  unfold Memory.cell
  split
  · rfl
  · simp [Memory.read, h.symm]

theorem Memory.read_cell_same {rest : Memory} (h : ∀ e ∈ rest, a < e.1) :
    Memory.read f (Memory.cell f a b rest) a = b := by
  unfold Memory.cell
  split
  · rw [Memory.read_of_lt h]; exact Eq.symm ‹_›
  · simp [Memory.read]

theorem Memory.wf_cell {rest : Memory} (hw : Memory.wf f rest) (h : ∀ e ∈ rest, a < e.1)
    (ha : a < memSize) : Memory.wf f (Memory.cell f a b rest) := by
  unfold Memory.cell
  split
  · exact hw
  · exact Memory.wf_cons.2 ⟨h, ⟨ha, ‹_›⟩, hw⟩

/-- A write leaves every other byte alone. -/
theorem Memory.read_write_other (h : c ≠ a) :
    Memory.read f (Memory.write f m a b) c = Memory.read f m c := by
  induction m with
  | nil => exact Memory.read_cell_other h
  | cons d rest ih =>
    rw [Memory.write]
    split
    · exact Memory.read_cell_other h
    · split
      · rw [Memory.read_cell_other h, Memory.read, if_neg (by omega)]
      · rw [Memory.read, ih, Memory.read]

/-- A read after a write gives the byte written. -/
theorem Memory.read_write_same (hw : Memory.wf f m) :
    Memory.read f (Memory.write f m a b) a = b := by
  induction m with
  | nil => exact Memory.read_cell_same (by simp)
  | cons d rest ih =>
    obtain ⟨hlt, -, hrest⟩ := Memory.wf_cons.1 hw
    rw [Memory.write]
    split
    · refine Memory.read_cell_same fun e he => ?_
      rcases List.mem_cons.1 he with rfl | he
      · assumption
      · have := hlt e he; omega
    · split
      · next h => exact Memory.read_cell_same fun e he => h ▸ hlt e he
      · rw [Memory.read, if_neg (by omega), ih hrest]

/-- Every address a write lists was listed before or is the one written. -/
theorem Memory.mem_write {e : Host.Cell} (he : e ∈ Memory.write f m a b) : e.1 = a ∨ e ∈ m := by
  induction m with
  | nil =>
    simp only [Memory.write, Memory.cell] at he
    split at he <;> simp_all
  | cons d rest ih =>
    simp only [Memory.write, Memory.cell] at he
    split at he
    · split at he
      · exact .inr he
      · rcases List.mem_cons.1 he with rfl | he
        · exact .inl rfl
        · exact .inr he
    · split at he
      · split at he
        · exact .inr (by simp [he])
        · rcases List.mem_cons.1 he with rfl | he
          · exact .inl rfl
          · exact .inr (by simp [he])
      · rcases List.mem_cons.1 he with rfl | he
        · exact .inr (by simp)
        · rcases ih he with h | h
          · exact .inl h
          · exact .inr (by simp [h])

/-- A write inside memory keeps the canonical form. -/
theorem Memory.wf_write (hw : Memory.wf f m) (ha : a < memSize) :
    Memory.wf f (Memory.write f m a b) := by
  induction m with
  | nil => exact Memory.wf_cell Memory.wf_nil (by simp) ha
  | cons d rest ih =>
    obtain ⟨hlt, hd, hrest⟩ := Memory.wf_cons.1 hw
    rw [Memory.write]
    split
    · refine Memory.wf_cell hw (fun e he => ?_) ha
      rcases List.mem_cons.1 he with rfl | he
      · assumption
      · have := hlt e he; omega
    · split
      · next h => exact Memory.wf_cell hrest (fun e he => h ▸ hlt e he) ha
      · refine Memory.wf_cons.2 ⟨fun e he => ?_, hd, ih hrest⟩
        rcases Memory.mem_write he with h | h
        · omega
        · exact hlt e h

/-- Writing consecutive bytes inside memory keeps the canonical form. -/
theorem Memory.wf_writeList {bs : List Byte} (hw : Memory.wf f m) (ha : a + bs.length ≤ memSize) :
    Memory.wf f (Memory.writeList f m a bs) := by
  induction bs generalizing m a with
  | nil => exact hw
  | cons b bs ih =>
    simp only [List.length_cons] at ha
    exact ih (Memory.wf_write hw (by omega)) (by omega)

/-- Writing consecutive bytes leaves every byte outside them alone. -/
theorem Memory.read_writeList_other {bs : List Byte} (h : c < a ∨ a + bs.length ≤ c) :
    Memory.read f (Memory.writeList f m a bs) c = Memory.read f m c := by
  induction bs generalizing m a with
  | nil => rfl
  | cons b bs ih =>
    simp only [List.length_cons] at h
    rw [Memory.writeList, ih (by omega), Memory.read_write_other (by omega)]

/-- Consecutive bytes read back as written. -/
theorem Memory.read_writeList_same {bs : List Byte} (hw : Memory.wf f m)
    (ha : a + bs.length ≤ memSize) {k : Nat} (hk : k < bs.length) :
    Memory.read f (Memory.writeList f m a bs) (a + k) = bs[k] := by
  induction bs generalizing m a k with
  | nil => simp at hk
  | cons b bs ih =>
    simp only [List.length_cons] at ha hk
    rw [Memory.writeList]
    cases k with
    | zero => rw [Memory.read_writeList_other (by omega)]; exact Memory.read_write_same hw
    | succ k =>
      rw [show a + (k + 1) = (a + 1) + k by omega]
      exact ih (Memory.wf_write hw (by omega)) (by omega) (by omega)

end Sys2Proof.Machine
end

