-- ==== Sys2Proof/Laws/State.lean ====
section
/-!
SUPPORT. One lemma for each field under each update of the state, true by unfolding, so that no proof
unfolds a record update.
-/

namespace Sys2Proof.Machine

variable (s : State)

@[simp] theorem State.setV_mem (r : Reg) (b : Byte) :
    (s.setV r b).mem = s.mem := rfl
@[simp] theorem State.setV_v (r : Reg) (b : Byte) :
    (s.setV r b).v = s.v.set r b := rfl
@[simp] theorem State.setV_i (r : Reg) (b : Byte) :
    (s.setV r b).i = s.i := rfl
@[simp] theorem State.setV_pc (r : Reg) (b : Byte) :
    (s.setV r b).pc = s.pc := rfl
@[simp] theorem State.setV_stack (r : Reg) (b : Byte) :
    (s.setV r b).stack = s.stack := rfl
@[simp] theorem State.setV_sp (r : Reg) (b : Byte) :
    (s.setV r b).sp = s.sp := rfl
@[simp] theorem State.setV_delayTimer (r : Reg) (b : Byte) :
    (s.setV r b).delayTimer = s.delayTimer := rfl
@[simp] theorem State.setV_soundTimer (r : Reg) (b : Byte) :
    (s.setV r b).soundTimer = s.soundTimer := rfl
@[simp] theorem State.setV_keys (r : Reg) (b : Byte) :
    (s.setV r b).keys = s.keys := rfl
@[simp] theorem State.setV_gfx (r : Reg) (b : Byte) :
    (s.setV r b).gfx = s.gfx := rfl
@[simp] theorem State.setV_cfg (r : Reg) (b : Byte) :
    (s.setV r b).cfg = s.cfg := rfl
@[simp] theorem State.setV_env (r : Reg) (b : Byte) :
    (s.setV r b).env = s.env := rfl
@[simp] theorem State.setV_drawIndex (r : Reg) (b : Byte) :
    (s.setV r b).drawIndex = s.drawIndex := rfl
@[simp] theorem State.setV_frameOut (r : Reg) (b : Byte) :
    (s.setV r b).frameOut = s.frameOut := rfl

@[simp] theorem State.setFlag_mem (b : Byte) :
    (s.setFlag b).mem = s.mem := rfl
@[simp] theorem State.setFlag_v (b : Byte) :
    (s.setFlag b).v = s.v.set vf b := rfl
@[simp] theorem State.setFlag_i (b : Byte) :
    (s.setFlag b).i = s.i := rfl
@[simp] theorem State.setFlag_pc (b : Byte) :
    (s.setFlag b).pc = s.pc := rfl
@[simp] theorem State.setFlag_stack (b : Byte) :
    (s.setFlag b).stack = s.stack := rfl
@[simp] theorem State.setFlag_sp (b : Byte) :
    (s.setFlag b).sp = s.sp := rfl
@[simp] theorem State.setFlag_delayTimer (b : Byte) :
    (s.setFlag b).delayTimer = s.delayTimer := rfl
@[simp] theorem State.setFlag_soundTimer (b : Byte) :
    (s.setFlag b).soundTimer = s.soundTimer := rfl
@[simp] theorem State.setFlag_keys (b : Byte) :
    (s.setFlag b).keys = s.keys := rfl
@[simp] theorem State.setFlag_gfx (b : Byte) :
    (s.setFlag b).gfx = s.gfx := rfl
@[simp] theorem State.setFlag_cfg (b : Byte) :
    (s.setFlag b).cfg = s.cfg := rfl
@[simp] theorem State.setFlag_env (b : Byte) :
    (s.setFlag b).env = s.env := rfl
@[simp] theorem State.setFlag_drawIndex (b : Byte) :
    (s.setFlag b).drawIndex = s.drawIndex := rfl
@[simp] theorem State.setFlag_frameOut (b : Byte) :
    (s.setFlag b).frameOut = s.frameOut := rfl

@[simp] theorem State.setResultFlag_mem (x : Reg) (a b : Byte) :
    (s.setResultFlag x a b).mem = s.mem := rfl
@[simp] theorem State.setResultFlag_v (x : Reg) (a b : Byte) :
    (s.setResultFlag x a b).v = (s.v.set x a).set vf b := rfl
@[simp] theorem State.setResultFlag_i (x : Reg) (a b : Byte) :
    (s.setResultFlag x a b).i = s.i := rfl
@[simp] theorem State.setResultFlag_pc (x : Reg) (a b : Byte) :
    (s.setResultFlag x a b).pc = s.pc := rfl
@[simp] theorem State.setResultFlag_stack (x : Reg) (a b : Byte) :
    (s.setResultFlag x a b).stack = s.stack := rfl
@[simp] theorem State.setResultFlag_sp (x : Reg) (a b : Byte) :
    (s.setResultFlag x a b).sp = s.sp := rfl
@[simp] theorem State.setResultFlag_delayTimer (x : Reg) (a b : Byte) :
    (s.setResultFlag x a b).delayTimer = s.delayTimer := rfl
@[simp] theorem State.setResultFlag_soundTimer (x : Reg) (a b : Byte) :
    (s.setResultFlag x a b).soundTimer = s.soundTimer := rfl
@[simp] theorem State.setResultFlag_keys (x : Reg) (a b : Byte) :
    (s.setResultFlag x a b).keys = s.keys := rfl
@[simp] theorem State.setResultFlag_gfx (x : Reg) (a b : Byte) :
    (s.setResultFlag x a b).gfx = s.gfx := rfl
@[simp] theorem State.setResultFlag_cfg (x : Reg) (a b : Byte) :
    (s.setResultFlag x a b).cfg = s.cfg := rfl
@[simp] theorem State.setResultFlag_env (x : Reg) (a b : Byte) :
    (s.setResultFlag x a b).env = s.env := rfl
@[simp] theorem State.setResultFlag_drawIndex (x : Reg) (a b : Byte) :
    (s.setResultFlag x a b).drawIndex = s.drawIndex := rfl
@[simp] theorem State.setResultFlag_frameOut (x : Reg) (a b : Byte) :
    (s.setResultFlag x a b).frameOut = s.frameOut := rfl

@[simp] theorem State.setI_mem (w : Word) :
    (s.setI w).mem = s.mem := rfl
@[simp] theorem State.setI_v (w : Word) :
    (s.setI w).v = s.v := rfl
@[simp] theorem State.setI_i (w : Word) :
    (s.setI w).i = w := rfl
@[simp] theorem State.setI_pc (w : Word) :
    (s.setI w).pc = s.pc := rfl
@[simp] theorem State.setI_stack (w : Word) :
    (s.setI w).stack = s.stack := rfl
@[simp] theorem State.setI_sp (w : Word) :
    (s.setI w).sp = s.sp := rfl
@[simp] theorem State.setI_delayTimer (w : Word) :
    (s.setI w).delayTimer = s.delayTimer := rfl
@[simp] theorem State.setI_soundTimer (w : Word) :
    (s.setI w).soundTimer = s.soundTimer := rfl
@[simp] theorem State.setI_keys (w : Word) :
    (s.setI w).keys = s.keys := rfl
@[simp] theorem State.setI_gfx (w : Word) :
    (s.setI w).gfx = s.gfx := rfl
@[simp] theorem State.setI_cfg (w : Word) :
    (s.setI w).cfg = s.cfg := rfl
@[simp] theorem State.setI_env (w : Word) :
    (s.setI w).env = s.env := rfl
@[simp] theorem State.setI_drawIndex (w : Word) :
    (s.setI w).drawIndex = s.drawIndex := rfl
@[simp] theorem State.setI_frameOut (w : Word) :
    (s.setI w).frameOut = s.frameOut := rfl

@[simp] theorem State.setPc_mem (w : Word) :
    (s.setPc w).mem = s.mem := rfl
@[simp] theorem State.setPc_v (w : Word) :
    (s.setPc w).v = s.v := rfl
@[simp] theorem State.setPc_i (w : Word) :
    (s.setPc w).i = s.i := rfl
@[simp] theorem State.setPc_pc (w : Word) :
    (s.setPc w).pc = w := rfl
@[simp] theorem State.setPc_stack (w : Word) :
    (s.setPc w).stack = s.stack := rfl
@[simp] theorem State.setPc_sp (w : Word) :
    (s.setPc w).sp = s.sp := rfl
@[simp] theorem State.setPc_delayTimer (w : Word) :
    (s.setPc w).delayTimer = s.delayTimer := rfl
@[simp] theorem State.setPc_soundTimer (w : Word) :
    (s.setPc w).soundTimer = s.soundTimer := rfl
@[simp] theorem State.setPc_keys (w : Word) :
    (s.setPc w).keys = s.keys := rfl
@[simp] theorem State.setPc_gfx (w : Word) :
    (s.setPc w).gfx = s.gfx := rfl
@[simp] theorem State.setPc_cfg (w : Word) :
    (s.setPc w).cfg = s.cfg := rfl
@[simp] theorem State.setPc_env (w : Word) :
    (s.setPc w).env = s.env := rfl
@[simp] theorem State.setPc_drawIndex (w : Word) :
    (s.setPc w).drawIndex = s.drawIndex := rfl
@[simp] theorem State.setPc_frameOut (w : Word) :
    (s.setPc w).frameOut = s.frameOut := rfl

@[simp] theorem State.advance_mem :
    (s.advance).mem = s.mem := rfl
@[simp] theorem State.advance_v :
    (s.advance).v = s.v := rfl
@[simp] theorem State.advance_i :
    (s.advance).i = s.i := rfl
@[simp] theorem State.advance_pc :
    (s.advance).pc = s.pc + 2#16 := rfl
@[simp] theorem State.advance_stack :
    (s.advance).stack = s.stack := rfl
@[simp] theorem State.advance_sp :
    (s.advance).sp = s.sp := rfl
@[simp] theorem State.advance_delayTimer :
    (s.advance).delayTimer = s.delayTimer := rfl
@[simp] theorem State.advance_soundTimer :
    (s.advance).soundTimer = s.soundTimer := rfl
@[simp] theorem State.advance_keys :
    (s.advance).keys = s.keys := rfl
@[simp] theorem State.advance_gfx :
    (s.advance).gfx = s.gfx := rfl
@[simp] theorem State.advance_cfg :
    (s.advance).cfg = s.cfg := rfl
@[simp] theorem State.advance_env :
    (s.advance).env = s.env := rfl
@[simp] theorem State.advance_drawIndex :
    (s.advance).drawIndex = s.drawIndex := rfl
@[simp] theorem State.advance_frameOut :
    (s.advance).frameOut = s.frameOut := rfl

@[simp] theorem State.skipIf_mem (c : Bool) :
    (s.skipIf c).mem = s.mem := rfl
@[simp] theorem State.skipIf_v (c : Bool) :
    (s.skipIf c).v = s.v := rfl
@[simp] theorem State.skipIf_i (c : Bool) :
    (s.skipIf c).i = s.i := rfl
@[simp] theorem State.skipIf_pc (c : Bool) :
    (s.skipIf c).pc = if c then s.pc + 2#16 + 2#16 else s.pc + 2#16 := rfl
@[simp] theorem State.skipIf_stack (c : Bool) :
    (s.skipIf c).stack = s.stack := rfl
@[simp] theorem State.skipIf_sp (c : Bool) :
    (s.skipIf c).sp = s.sp := rfl
@[simp] theorem State.skipIf_delayTimer (c : Bool) :
    (s.skipIf c).delayTimer = s.delayTimer := rfl
@[simp] theorem State.skipIf_soundTimer (c : Bool) :
    (s.skipIf c).soundTimer = s.soundTimer := rfl
@[simp] theorem State.skipIf_keys (c : Bool) :
    (s.skipIf c).keys = s.keys := rfl
@[simp] theorem State.skipIf_gfx (c : Bool) :
    (s.skipIf c).gfx = s.gfx := rfl
@[simp] theorem State.skipIf_cfg (c : Bool) :
    (s.skipIf c).cfg = s.cfg := rfl
@[simp] theorem State.skipIf_env (c : Bool) :
    (s.skipIf c).env = s.env := rfl
@[simp] theorem State.skipIf_drawIndex (c : Bool) :
    (s.skipIf c).drawIndex = s.drawIndex := rfl
@[simp] theorem State.skipIf_frameOut (c : Bool) :
    (s.skipIf c).frameOut = s.frameOut := rfl

@[simp] theorem State.writeBytes_mem (a : Nat) (bs : List Byte) :
    (s.writeBytes a bs).mem = Memory.writeList s.cfg.font s.mem a bs := rfl
@[simp] theorem State.writeBytes_v (a : Nat) (bs : List Byte) :
    (s.writeBytes a bs).v = s.v := rfl
@[simp] theorem State.writeBytes_i (a : Nat) (bs : List Byte) :
    (s.writeBytes a bs).i = s.i := rfl
@[simp] theorem State.writeBytes_pc (a : Nat) (bs : List Byte) :
    (s.writeBytes a bs).pc = s.pc := rfl
@[simp] theorem State.writeBytes_stack (a : Nat) (bs : List Byte) :
    (s.writeBytes a bs).stack = s.stack := rfl
@[simp] theorem State.writeBytes_sp (a : Nat) (bs : List Byte) :
    (s.writeBytes a bs).sp = s.sp := rfl
@[simp] theorem State.writeBytes_delayTimer (a : Nat) (bs : List Byte) :
    (s.writeBytes a bs).delayTimer = s.delayTimer := rfl
@[simp] theorem State.writeBytes_soundTimer (a : Nat) (bs : List Byte) :
    (s.writeBytes a bs).soundTimer = s.soundTimer := rfl
@[simp] theorem State.writeBytes_keys (a : Nat) (bs : List Byte) :
    (s.writeBytes a bs).keys = s.keys := rfl
@[simp] theorem State.writeBytes_gfx (a : Nat) (bs : List Byte) :
    (s.writeBytes a bs).gfx = s.gfx := rfl
@[simp] theorem State.writeBytes_cfg (a : Nat) (bs : List Byte) :
    (s.writeBytes a bs).cfg = s.cfg := rfl
@[simp] theorem State.writeBytes_env (a : Nat) (bs : List Byte) :
    (s.writeBytes a bs).env = s.env := rfl
@[simp] theorem State.writeBytes_drawIndex (a : Nat) (bs : List Byte) :
    (s.writeBytes a bs).drawIndex = s.drawIndex := rfl
@[simp] theorem State.writeBytes_frameOut (a : Nat) (bs : List Byte) :
    (s.writeBytes a bs).frameOut = s.frameOut := rfl

@[simp] theorem State.facing_mem (e : EnvInput) :
    (s.facing e).mem = s.mem := rfl
@[simp] theorem State.facing_v (e : EnvInput) :
    (s.facing e).v = s.v := rfl
@[simp] theorem State.facing_i (e : EnvInput) :
    (s.facing e).i = s.i := rfl
@[simp] theorem State.facing_pc (e : EnvInput) :
    (s.facing e).pc = s.pc := rfl
@[simp] theorem State.facing_stack (e : EnvInput) :
    (s.facing e).stack = s.stack := rfl
@[simp] theorem State.facing_sp (e : EnvInput) :
    (s.facing e).sp = s.sp := rfl
@[simp] theorem State.facing_delayTimer (e : EnvInput) :
    (s.facing e).delayTimer = s.delayTimer := rfl
@[simp] theorem State.facing_soundTimer (e : EnvInput) :
    (s.facing e).soundTimer = s.soundTimer := rfl
@[simp] theorem State.facing_keys (e : EnvInput) :
    (s.facing e).keys = s.keys := rfl
@[simp] theorem State.facing_gfx (e : EnvInput) :
    (s.facing e).gfx = s.gfx := rfl
@[simp] theorem State.facing_cfg (e : EnvInput) :
    (s.facing e).cfg = s.cfg := rfl
@[simp] theorem State.facing_env (e : EnvInput) :
    (s.facing e).env = [e] := rfl
@[simp] theorem State.facing_drawIndex (e : EnvInput) :
    (s.facing e).drawIndex = s.drawIndex := rfl
@[simp] theorem State.facing_frameOut (e : EnvInput) :
    (s.facing e).frameOut = s.frameOut := rfl

@[simp] theorem State.poll_mem :
    (s.poll).mem = s.mem := rfl
@[simp] theorem State.poll_v :
    (s.poll).v = s.v := rfl
@[simp] theorem State.poll_i :
    (s.poll).i = s.i := rfl
@[simp] theorem State.poll_pc :
    (s.poll).pc = s.pc := rfl
@[simp] theorem State.poll_stack :
    (s.poll).stack = s.stack := rfl
@[simp] theorem State.poll_sp :
    (s.poll).sp = s.sp := rfl
@[simp] theorem State.poll_delayTimer :
    (s.poll).delayTimer = s.delayTimer := rfl
@[simp] theorem State.poll_soundTimer :
    (s.poll).soundTimer = s.soundTimer := rfl
@[simp] theorem State.poll_keys :
    (s.poll).keys = s.input.keysIn := rfl
@[simp] theorem State.poll_gfx :
    (s.poll).gfx = s.gfx := rfl
@[simp] theorem State.poll_cfg :
    (s.poll).cfg = s.cfg := rfl
@[simp] theorem State.poll_env :
    (s.poll).env = s.env := rfl
@[simp] theorem State.poll_drawIndex :
    (s.poll).drawIndex = s.drawIndex := rfl
@[simp] theorem State.poll_frameOut :
    (s.poll).frameOut = s.frameOut := rfl

@[simp] theorem State.frameTick_mem :
    (s.frameTick).mem = s.mem := rfl
@[simp] theorem State.frameTick_v :
    (s.frameTick).v = s.v := rfl
@[simp] theorem State.frameTick_i :
    (s.frameTick).i = s.i := rfl
@[simp] theorem State.frameTick_pc :
    (s.frameTick).pc = s.pc := rfl
@[simp] theorem State.frameTick_stack :
    (s.frameTick).stack = s.stack := rfl
@[simp] theorem State.frameTick_sp :
    (s.frameTick).sp = s.sp := rfl
@[simp] theorem State.frameTick_delayTimer :
    (s.frameTick).delayTimer = countDown s.delayTimer := rfl
@[simp] theorem State.frameTick_soundTimer :
    (s.frameTick).soundTimer = countDown s.soundTimer := rfl
@[simp] theorem State.frameTick_keys :
    (s.frameTick).keys = s.keys := rfl
@[simp] theorem State.frameTick_gfx :
    (s.frameTick).gfx = s.gfx := rfl
@[simp] theorem State.frameTick_cfg :
    (s.frameTick).cfg = s.cfg := rfl
@[simp] theorem State.frameTick_env :
    (s.frameTick).env = s.env := rfl
@[simp] theorem State.frameTick_drawIndex :
    (s.frameTick).drawIndex = s.drawIndex := rfl
@[simp] theorem State.frameTick_frameOut :
    (s.frameTick).frameOut = some s.gfx := rfl

@[simp] theorem State.tickWhen_mem (due : Bool) :
    (s.tickWhen due).mem = s.mem := rfl
@[simp] theorem State.tickWhen_v (due : Bool) :
    (s.tickWhen due).v = s.v := rfl
@[simp] theorem State.tickWhen_i (due : Bool) :
    (s.tickWhen due).i = s.i := rfl
@[simp] theorem State.tickWhen_pc (due : Bool) :
    (s.tickWhen due).pc = s.pc := rfl
@[simp] theorem State.tickWhen_stack (due : Bool) :
    (s.tickWhen due).stack = s.stack := rfl
@[simp] theorem State.tickWhen_sp (due : Bool) :
    (s.tickWhen due).sp = s.sp := rfl
@[simp] theorem State.tickWhen_delayTimer (due : Bool) :
    (s.tickWhen due).delayTimer = if due then countDown s.delayTimer else s.delayTimer := rfl
@[simp] theorem State.tickWhen_soundTimer (due : Bool) :
    (s.tickWhen due).soundTimer = if due then countDown s.soundTimer else s.soundTimer := rfl
@[simp] theorem State.tickWhen_keys (due : Bool) :
    (s.tickWhen due).keys = s.keys := rfl
@[simp] theorem State.tickWhen_gfx (due : Bool) :
    (s.tickWhen due).gfx = s.gfx := rfl
@[simp] theorem State.tickWhen_cfg (due : Bool) :
    (s.tickWhen due).cfg = s.cfg := rfl
@[simp] theorem State.tickWhen_env (due : Bool) :
    (s.tickWhen due).env = s.env := rfl
@[simp] theorem State.tickWhen_drawIndex (due : Bool) :
    (s.tickWhen due).drawIndex = s.drawIndex := rfl
@[simp] theorem State.tickWhen_frameOut (due : Bool) :
    (s.tickWhen due).frameOut = if due then some s.gfx else s.frameOut := rfl

@[simp] theorem State.nextInput_mem :
    (s.nextInput).mem = s.mem := rfl
@[simp] theorem State.nextInput_v :
    (s.nextInput).v = s.v := rfl
@[simp] theorem State.nextInput_i :
    (s.nextInput).i = s.i := rfl
@[simp] theorem State.nextInput_pc :
    (s.nextInput).pc = s.pc := rfl
@[simp] theorem State.nextInput_stack :
    (s.nextInput).stack = s.stack := rfl
@[simp] theorem State.nextInput_sp :
    (s.nextInput).sp = s.sp := rfl
@[simp] theorem State.nextInput_delayTimer :
    (s.nextInput).delayTimer = s.delayTimer := rfl
@[simp] theorem State.nextInput_soundTimer :
    (s.nextInput).soundTimer = s.soundTimer := rfl
@[simp] theorem State.nextInput_keys :
    (s.nextInput).keys = s.keys := rfl
@[simp] theorem State.nextInput_gfx :
    (s.nextInput).gfx = s.gfx := rfl
@[simp] theorem State.nextInput_cfg :
    (s.nextInput).cfg = s.cfg := rfl
@[simp] theorem State.nextInput_env :
    (s.nextInput).env = s.env.tail := rfl
@[simp] theorem State.nextInput_drawIndex :
    (s.nextInput).drawIndex = s.drawIndex + 1 := rfl
@[simp] theorem State.nextInput_frameOut :
    (s.nextInput).frameOut = s.frameOut := rfl

@[simp] theorem State.endIteration_mem :
    (s.endIteration).mem = s.mem := rfl
@[simp] theorem State.endIteration_v :
    (s.endIteration).v = s.v := rfl
@[simp] theorem State.endIteration_i :
    (s.endIteration).i = s.i := rfl
@[simp] theorem State.endIteration_pc :
    (s.endIteration).pc = s.pc := rfl
@[simp] theorem State.endIteration_stack :
    (s.endIteration).stack = s.stack := rfl
@[simp] theorem State.endIteration_sp :
    (s.endIteration).sp = s.sp := rfl
@[simp] theorem State.endIteration_delayTimer :
    (s.endIteration).delayTimer = if s.input.frameDue then countDown s.delayTimer else s.delayTimer := rfl
@[simp] theorem State.endIteration_soundTimer :
    (s.endIteration).soundTimer = if s.input.frameDue then countDown s.soundTimer else s.soundTimer := rfl
@[simp] theorem State.endIteration_keys :
    (s.endIteration).keys = s.keys := rfl
@[simp] theorem State.endIteration_gfx :
    (s.endIteration).gfx = s.gfx := rfl
@[simp] theorem State.endIteration_cfg :
    (s.endIteration).cfg = s.cfg := rfl
@[simp] theorem State.endIteration_env :
    (s.endIteration).env = s.env.tail := rfl
@[simp] theorem State.endIteration_drawIndex :
    (s.endIteration).drawIndex = s.drawIndex + 1 := rfl
@[simp] theorem State.endIteration_frameOut :
    (s.endIteration).frameOut = if s.input.frameDue then some s.gfx else s.frameOut := rfl

end Sys2Proof.Machine
end

