-- ==== Sys2Proof/Laws/Ops.lean ====
section
/-!
SUPPORT. One lemma for each shared operation, saying everything it can do; proofs cite it and do not unfold
the operation.
-/

namespace Sys2Proof.Machine

variable (s : State)

/-- A register file reads as written, and elsewhere as before. -/
theorem regFile_set_get (v : RegFile) (x r : Reg) (b : Byte) :
    (v.set x b)[r] = if r = x then b else v[r] := by
  simp only [Fin.getElem_fin, Vector.getElem_set, Fin.val_inj, eq_comm]

theorem State.getV_eq (r : Reg) : s.getV r = s.v[r] := rfl

/-- A register reads as written, and the others as before. -/
@[simp] theorem State.getV_setV (r q : Reg) (b : Byte) :
    (s.setV r b).getV q = if q = r then b else s.getV q := by
  simp only [State.getV, State.setV, Fin.getElem_fin, Vector.getElem_set, Fin.val_inj, eq_comm]

/-- A result and a flag: the flag is last (R141). -/
@[simp] theorem State.getV_setResultFlag (x q : Reg) (a b : Byte) :
    (s.setResultFlag x a b).getV q = if q = vf then b else if q = x then a else s.getV q := by
  simp only [State.setResultFlag, State.setFlag, State.getV_setV]

@[simp] theorem State.getV_setFlag (q : Reg) (b : Byte) :
    (s.setFlag b).getV q = if q = vf then b else s.getV q := s.getV_setV vf q b

@[simp] theorem State.getV_advance (q : Reg) : s.advance.getV q = s.getV q := rfl

@[simp] theorem State.getV_skipIf (q : Reg) (c : Bool) : (s.skipIf c).getV q = s.getV q := rfl

/-- A halt is a fault with the opcode and the `pc` of the instruction (R302), and nothing else. -/
@[simp] theorem halt_eq (cause : Word → Word → Fault) (i : Instr) :
    halt cause i s = .fault (cause (encode i) s.pc) := rfl

/-- Reads are of `mem` and the font alone. -/
@[simp] theorem State.readByte_advance (a : Nat) : s.advance.readByte a = s.readByte a := rfl

/-- A byte outside those written reads as before. -/
theorem State.readByte_writeBytes_other {a c : Nat} {bs : List Byte}
    (h : c < a ∨ a + bs.length ≤ c) : (s.writeBytes a bs).readByte c = s.readByte c :=
  Memory.read_writeList_other h

/-- The bytes written read back. -/
theorem State.readByte_writeBytes_same {a k : Nat} {bs : List Byte} (hw : Memory.wf s.cfg.font s.mem)
    (ha : a + bs.length ≤ memSize) (hk : k < bs.length) :
    (s.writeBytes a bs).readByte (a + k) = bs[k] :=
  Memory.read_writeList_same hw ha hk

/-- Writing bytes inside memory keeps its form. -/
theorem State.memWf_writeBytes {a : Nat} {bs : List Byte} (hw : Memory.wf s.cfg.font s.mem)
    (ha : a + bs.length ≤ memSize) :
    Memory.wf (s.writeBytes a bs).cfg.font (s.writeBytes a bs).mem :=
  Memory.wf_writeList hw ha

/-- The range check of R55. -/
theorem State.rangeFails_iff (k : Nat) : s.rangeFails k = true ↔ 0xFFF < s.i.toNat + k := by
  simp [State.rangeFails]

/-- A push that succeeds: there is room, and the three writes of R122. -/
theorem State.push?_eq_some {w : Word} {t : State} (h : s.push? w = some t) :
    ∃ lt : s.sp.val < 16, t = { s with
      stack := s.stack.set s.sp.val (s.pc + 2#16) lt
      sp := ⟨s.sp.val + 1, Nat.succ_lt_succ lt⟩
      pc := w } := by
  unfold State.push? at h
  split at h
  · exact ⟨‹_›, by simpa [State.nextPc] using h.symm⟩
  · cases h

/-- A push fails only on a full stack. -/
theorem State.push?_eq_none {w : Word} : s.push? w = none ↔ s.sp.val = 16 := by
  have := s.sp.isLt
  simp only [State.push?, dite_eq_right_iff, reduceCtorEq, imp_false]
  omega

/-- A pop that succeeds: an entry was there, and the two writes of R120. -/
theorem State.pop?_eq_some {t : State} (h : s.pop? = some t) :
    ∃ lt : s.sp.val - 1 < 16, 0 < s.sp.val ∧ t = { s with
      sp := ⟨s.sp.val - 1, Nat.lt_succ_of_lt lt⟩
      pc := s.stack[s.sp.val - 1] } := by
  unfold State.pop? at h
  split at h
  · have := s.sp.isLt
    exact ⟨by omega, ‹_›, by simpa using h.symm⟩
  · cases h

/-- A pop fails only on an empty stack. -/
theorem State.pop?_eq_none : s.pop? = none ↔ s.sp.val = 0 := by
  simp only [State.pop?, dite_eq_right_iff, reduceCtorEq, imp_false]
  omega

/-- The outcome of `mapNext` is a next state exactly when the inner one is. -/
theorem mapNext_eq_next {f : State → State} {o : Result} {t : State} :
    mapNext f o = .next t ↔ ∃ u, o = .next u ∧ t = f u := by
  cases o <;> simp [mapNext, eq_comm]

theorem mapNext_eq_fault {f : State → State} {o : Result} {r : Fault} :
    mapNext f o = .fault r ↔ o = .fault r := by
  cases o <;> simp [mapNext]

/-- The inputs depend on the listed lines and the counter alone. -/
theorem State.input_congr {s t : State} (he : s.env = t.env) (hk : s.drawIndex = t.drawIndex) :
    s.input = t.input := by
  unfold State.input; rw [he, hk]

/-- The first listed line is the coming input. -/
theorem State.input_of_cons {e : EnvInput} {l : List EnvInput} (h : s.env = e :: l) :
    s.input = e := by
  unfold State.input; rw [h]

/-- With no line listed the coming inputs are the free values. -/
theorem State.input_of_nil (h : s.env = []) : s.input = freeInput s.drawIndex := by
  unfold State.input; rw [h]

end Sys2Proof.Machine
end

