-- ==== Sys2Proof/Laws/Alu.lean ====
section
/-!
SUPPORT. The two endings of the ALU instructions: a register, or a register and the flag (42_alu.md R141).
-/

namespace Sys2Proof.Machine

variable (s : State)

/-- All `loadTo` does. -/
theorem loadTo_eq (x : Reg) (b : Byte) :
    loadTo s x b = .next { s with v := s.v.set x b, pc := s.pc + 2#16 } := rfl

/-- All `resultTo` does: the flag is what VF holds after, the result is in `v[x]` for another `x`. -/
theorem resultTo_eq (x : Reg) (result flag : Byte) :
    ∃ t, resultTo s x result flag = .next t ∧
      (∀ r : Reg, t.v[r] = if r = 15 then flag else if r = x then result else s.v[r]) ∧
      t = { s with v := t.v, pc := s.pc + 2#16 } := by
  refine ⟨_, rfl, fun r => ?_, rfl⟩
  show (((s.setV x result).setV vf flag).getV r) = _
  rw [State.getV_setV, State.getV_setV]
  rfl

/-- All `skipIf` does. -/
theorem State.skipIf_eq (c : Bool) :
    s.skipIf c = { s with pc := if c then s.pc + 2#16 + 2#16 else s.pc + 2#16 } := rfl

end Sys2Proof.Machine
end

