-- ==== Sys2Proof/Laws/Decode.lean ====
section
/-!
SUPPORT. The fields of an encoded word, one lemma for each field of each format (30_encoding.md R71).
-/

namespace Sys2Proof

variable (h f : BitVec 4) (x y : Reg) (nn : Byte) (nnn : Addr12)

theorem regBits_toFin : (regBits x).toFin = x := rfl

@[simp] theorem opH_encodeXY : opH (encodeXY h x y f) = h := by
  apply BitVec.eq_of_getLsbD_eq; intro k hk
  simp only [opH, encodeXY, BitVec.getLsbD_extractLsb', BitVec.getLsbD_append]
  simp [hk, show ¬ (12 + k < 4) by omega, show ¬ (12 + k - 4 < 4) by omega,
    show ¬ (12 + k - 4 - 4 < 4) by omega, show 12 + k - 4 - 4 - 4 = k by omega]

@[simp] theorem opN_encodeXY : opN (encodeXY h x y f) = f := by
  apply BitVec.eq_of_getLsbD_eq; intro k hk
  simp only [opN, encodeXY, BitVec.getLsbD_extractLsb', BitVec.getLsbD_append]
  simp [hk]

@[simp] theorem opX_encodeXY : opX (encodeXY h x y f) = x := by
  have : (encodeXY h x y f).extractLsb' 8 4 = regBits x := by
    apply BitVec.eq_of_getLsbD_eq; intro k hk
    simp only [encodeXY, BitVec.getLsbD_extractLsb', BitVec.getLsbD_append]
    simp [hk, show ¬ (8 + k < 4) by omega, show ¬ (8 + k - 4 < 4) by omega,
      show 8 + k - 4 - 4 = k by omega]
  rw [opX, this, regBits_toFin]

@[simp] theorem opY_encodeXY : opY (encodeXY h x y f) = y := by
  have : (encodeXY h x y f).extractLsb' 4 4 = regBits y := by
    apply BitVec.eq_of_getLsbD_eq; intro k hk
    simp only [encodeXY, BitVec.getLsbD_extractLsb', BitVec.getLsbD_append]
    simp [hk, show ¬ (4 + k < 4) by omega, show 4 + k - 4 = k by omega]
  rw [opY, this, regBits_toFin]

@[simp] theorem opH_encodeXNN : opH (encodeXNN h x nn) = h := by
  apply BitVec.eq_of_getLsbD_eq; intro k hk
  simp only [opH, encodeXNN, BitVec.getLsbD_extractLsb', BitVec.getLsbD_append]
  simp [hk, show ¬ (12 + k < 8) by omega, show ¬ (12 + k - 8 < 4) by omega,
    show 12 + k - 8 - 4 = k by omega]

@[simp] theorem opNN_encodeXNN : opNN (encodeXNN h x nn) = nn := by
  apply BitVec.eq_of_getLsbD_eq; intro k hk
  simp only [opNN, encodeXNN, BitVec.getLsbD_extractLsb', BitVec.getLsbD_append]
  simp [hk]

@[simp] theorem opX_encodeXNN : opX (encodeXNN h x nn) = x := by
  have : (encodeXNN h x nn).extractLsb' 8 4 = regBits x := by
    apply BitVec.eq_of_getLsbD_eq; intro k hk
    simp only [encodeXNN, BitVec.getLsbD_extractLsb', BitVec.getLsbD_append]
    simp [hk, show ¬ (8 + k < 8) by omega, show 8 + k - 8 = k by omega]
  rw [opX, this, regBits_toFin]

@[simp] theorem opH_encodeNNN : opH (encodeNNN h nnn) = h := by
  apply BitVec.eq_of_getLsbD_eq; intro k hk
  simp only [opH, encodeNNN, BitVec.getLsbD_extractLsb', BitVec.getLsbD_append]
  simp [hk, show ¬ (12 + k < 12) by omega, show 12 + k - 12 = k by omega]

@[simp] theorem opNNN_encodeNNN : opNNN (encodeNNN h nnn) = nnn := by
  apply BitVec.eq_of_getLsbD_eq; intro k hk
  simp only [opNNN, encodeNNN, BitVec.getLsbD_extractLsb', BitVec.getLsbD_append]
  simp [hk]

theorem nibble_and_ones (b : BitVec 4) : b &&& 0xF#4 = b := BitVec.and_allOnes

theorem byte_and_ones (b : BitVec 8) : b &&& 0xFF#8 = b := BitVec.and_allOnes

/-- Masking a word of each format to its fixed bits. -/
theorem encodeNNN_and : encodeNNN h nnn &&& 0xF000#16 = h ++ 0#12 := by
  rw [show (0xF000#16) = (0xF#4 ++ 0#12 : BitVec 16) from rfl, encodeNNN, BitVec.and_append,
    nibble_and_ones, BitVec.and_zero]

theorem encodeXNN_and : encodeXNN h x nn &&& 0xF000#16 = h ++ 0#4 ++ 0#8 := by
  rw [show (0xF000#16) = (0xF#4 ++ 0#4 ++ 0#8 : BitVec 16) from rfl, encodeXNN, BitVec.and_append,
    BitVec.and_append, nibble_and_ones, BitVec.and_zero, BitVec.and_zero]

theorem encodeXNN_and_byte : encodeXNN h x nn &&& 0xF0FF#16 = h ++ 0#4 ++ nn := by
  rw [show (0xF0FF#16) = (0xF#4 ++ 0#4 ++ 0xFF#8 : BitVec 16) from rfl, encodeXNN, BitVec.and_append,
    BitVec.and_append, nibble_and_ones, BitVec.and_zero, byte_and_ones]

theorem encodeXY_and_nibble : encodeXY h x y f &&& 0xF00F#16 = h ++ 0#4 ++ 0#4 ++ f := by
  rw [show (0xF00F#16) = (0xF#4 ++ 0#4 ++ 0#4 ++ 0xF#4 : BitVec 16) from rfl, encodeXY,
    BitVec.and_append, BitVec.and_append, BitVec.and_append, nibble_and_ones, nibble_and_ones,
    BitVec.and_zero, BitVec.and_zero]

theorem encodeXY_and_major : encodeXY h x y f &&& 0xF000#16 = h ++ 0#4 ++ 0#4 ++ 0#4 := by
  rw [show (0xF000#16) = (0xF#4 ++ 0#4 ++ 0#4 ++ 0#4 : BitVec 16) from rfl, encodeXY,
    BitVec.and_append, BitVec.and_append, BitVec.and_append, nibble_and_ones,
    BitVec.and_zero, BitVec.and_zero, BitVec.and_zero]

/-- A concatenation as a number. -/
theorem append_toNat {m n : Nat} (a : BitVec m) (b : BitVec n) :
    (a ++ b).toNat = a.toNat * 2 ^ n + b.toNat := by
  rw [BitVec.toNat_append, ← Nat.shiftLeft_add_eq_or_of_lt b.isLt, Nat.shiftLeft_eq]

theorem regBits_toNat : (regBits x).toNat = x.val := rfl

/-- An encoded word of each format as a number. -/
theorem encodeNNN_toNat : (encodeNNN h nnn).toNat = 0x1000 * h.toNat + nnn.toNat := by
  rw [encodeNNN, append_toNat]; omega

theorem encodeXNN_toNat :
    (encodeXNN h x nn).toNat = 0x1000 * h.toNat + 0x100 * x.val + nn.toNat := by
  rw [encodeXNN, append_toNat, append_toNat, regBits_toNat]; omega

theorem encodeXY_toNat :
    (encodeXY h x y f).toNat = 0x1000 * h.toNat + 0x100 * x.val + 0x10 * y.val + f.toNat := by
  rw [encodeXY, append_toNat, append_toNat, append_toNat, regBits_toNat, regBits_toNat]; omega

end Sys2Proof
end

