-- ==== Sys2Proof/Laws/Operands.lean ====
section
/-!
SUPPORT. What the operand forms and the flag computations give, in exact arithmetic.
-/

namespace Sys2Proof.Machine

variable (s : State)

/-- The low 8 bits of the 9-bit sum are the sum modulo 256 (R148). -/
theorem sum9_low (a b : Byte) : ((sum9 a b).setWidth 8).toNat = (a.toNat + b.toNat) % 256 := by
  have := a.isLt; have := b.isLt
  simp only [sum9, BitVec.toNat_setWidth, BitVec.toNat_add]
  omega

/-- The carry is the exact sum's passing 255 (R140). -/
theorem carryOf_eq (a b : Byte) : carryOf a b = if 255 < a.toNat + b.toNat then 1#8 else 0#8 := by
  have ha := a.isLt
  have hb := b.isLt
  have : (sum9 a b).getLsbD 8 = decide (255 < a.toNat + b.toNat) := by
    simp only [BitVec.getLsbD, sum9, BitVec.toNat_add, BitVec.toNat_setWidth, Nat.testBit_eq_decide_div_mod_eq]
    congr 1
    apply propext
    constructor <;> intro h <;> omega
  rw [carryOf, this]
  simp [flagOf]

/-- NOT borrow compares the unsigned values (R140). -/
theorem notBorrow_eq (a b : Byte) : notBorrow a b = if b.toNat ≤ a.toNat then 1#8 else 0#8 := by
  simp [notBorrow, flagOf]

/-- `zext_16(nnn)` keeps the value (R72). -/
@[simp] theorem addr_toNat (nnn : Addr12) : (addr nnn).toNat = nnn.toNat := by
  have := nnn.isLt
  simp only [addr, BitVec.toNat_setWidth]
  omega

/-- The target of `Bnnn` is the exact sum: it never wraps (R127). -/
theorem offsetTarget_toNat (nnn : Addr12) :
    (offsetTarget s nnn).toNat = nnn.toNat + (s.getV 0).toNat := by
  have := nnn.isLt
  have := (s.getV 0).isLt
  simp only [offsetTarget, BitVec.toNat_add, addr_toNat, BitVec.toNat_setWidth]
  omega

/-- The font address is the exact value: it never wraps (R172). -/
theorem fontAddress_toNat (x : Reg) : (fontAddress s x).toNat = (s.getV x).toNat * 5 + 0x50 := by
  have := (s.getV x).isLt
  simp only [fontAddress, BitVec.toNat_add, BitVec.toNat_mul, BitVec.toNat_setWidth, BitVec.toNat_ofNat]
  omega

theorem keyCode_eq_some {x k : Reg} : keyCode s x = some k ↔ (s.getV x).toNat = k.val := by
  have := k.isLt
  unfold keyCode
  split
  · simp [Fin.ext_iff]
  · simp; omega

theorem keyCode_eq_none {x : Reg} : keyCode s x = none ↔ 0xF < (s.getV x).toNat := by
  unfold keyCode
  split <;> simp <;> omega

/-- No key is down exactly when none is found (R213). -/
theorem lowestKey_eq_none : lowestKey s = none ↔ ∀ k : Reg, s.keys[k] = false := by
  simp [lowestKey, keyDown]

/-- The key found is the lowest one down (R213). -/
theorem lowestKey_eq_some {k : Reg} :
    lowestKey s = some k ↔ s.keys[k] = true ∧ ∀ j : Reg, j < k → s.keys[j] = false := by
  unfold lowestKey keyDown
  constructor
  · intro h
    obtain ⟨hk, as, bs, happ, hbs⟩ := List.find?_eq_some_iff_append.1 h
    refine ⟨by simpa using hk, fun j hj => ?_⟩
    have hmem : j ∈ as := by
      have hp := List.pairwise_lt_finRange 16
      rw [happ] at hp
      have hj' : j ∈ List.finRange 16 := List.mem_finRange j
      rw [happ] at hj'
      rcases List.mem_append.1 hj' with h | h
      · exact h
      · rcases List.mem_cons.1 h with rfl | h
        · exact absurd hj (lt_irrefl _)
        · exact absurd hj (not_lt_of_gt ((List.pairwise_cons.1 (List.pairwise_append.1 hp).2.1).1 j h))
    simpa using hbs j hmem
  · rintro ⟨hk, hlow⟩
    cases hf : (List.finRange 16).find? (fun k => s.keys[k]) with
    | none => simp at hf; simp_all
    | some q =>
      have hq : s.keys[q] = true := by simpa using List.find?_some hf
      obtain ⟨-, as, bs, happ, hbs⟩ := List.find?_eq_some_iff_append.1 hf
      have hkm : k ∈ List.finRange 16 := List.mem_finRange k
      rw [happ] at hkm
      rcases List.mem_append.1 hkm with h | h
      · have := hbs k h; simp_all
      · rcases List.mem_cons.1 h with rfl | h
        · rfl
        · have hp := List.pairwise_lt_finRange 16
          rw [happ] at hp
          have hlt := (List.pairwise_cons.1 (List.pairwise_append.1 hp).2.1).1 k h
          rw [hlow q hlt] at hq
          cases hq

@[simp] theorem regBlock_length (x : Reg) : (regBlock s x).length = x.val + 1 := by
  have := x.isLt
  simp [regBlock]

theorem regBlock_get (x : Reg) {k : Nat} (hk : k < (regBlock s x).length) :
    (regBlock s x)[k] = s.v[k]'(by rw [regBlock_length] at hk; omega) := by
  simp [regBlock]

theorem loadedRegs_get (x k : Reg) :
    (loadedRegs s x)[k] = if k ≤ x then s.readByte (s.i.toNat + k.val) else s.v[k] := by
  simp [loadedRegs]

@[simp] theorem spriteRows_length (n : Nat) : (spriteRows s n).length = n := by simp [spriteRows]

theorem spriteRows_get {n k : Nat} (hk : k < (spriteRows s n).length) :
    (spriteRows s n)[k] = s.readByte (s.i.toNat + k) := by simp [spriteRows]

end Sys2Proof.Machine
end

