-- ==== Sys2Proof/Laws/Display.lean ====
section
/-!
SUPPORT. The draw unit, one pixel at a time.
-/

namespace Sys2Proof.Machine

variable (g : Framebuffer) (px py qx qy : Nat)

/-- Toggling a cell on the screen inverts that cell and no other. -/
theorem pixel_togglePixel (hx : px < 64) (hy : py < 32) :
    pixel (togglePixel g px py) qx qy = if qx = px ∧ qy = py then !pixel g qx qy else pixel g qx qy := by
  unfold pixel togglePixel
  rw [dif_pos hy]
  by_cases h : qy < 32
  · rw [dif_pos h, dif_pos h, Vector.getElem_set]
    by_cases hq : py = qy
    · subst hq
      have one : (1#64).getLsbD (qx - px) = decide (qx - px = 0) := by
        rw [BitVec.getLsbD_one]; simp
      by_cases hqx : qx = px
      · subst hqx; simp [hx]
      · simp only [if_pos, and_true, if_neg hqx, BitVec.getLsbD_xor, BitVec.getLsbD_shiftLeft, one]
        by_cases hl : qx < px
        · simp [hl]
        · simp [show qx - px ≠ 0 by omega]
    · rw [if_neg hq, if_neg (fun h => hq h.2.symm)]
  · rw [dif_neg h, dif_neg h]
    simp [show ¬ (qy = py) by omega]

/-- A blank screen has no set cell. -/
theorem pixel_blank : pixel (Vector.replicate 32 0#64) px py = false := by
  unfold pixel; split <;> simp

/-- One sprite pixel: a set bit on the screen inverts its cell; everything else leaves the cells alone. -/
theorem pixel_drawPixel (on : Bool) (c : Canvas) :
    pixel (drawPixel px py on c).1 qx qy =
      (pixel c.1 qx qy ^^ (on && decide (px < 64) && decide (py < 32) && decide (qx = px ∧ qy = py))) := by
  unfold drawPixel
  split
  · next h =>
    simp only [Bool.and_eq_true, decide_eq_true_eq] at h
    rw [pixel_togglePixel c.1 px py qx qy h.1.2 h.2]
    by_cases hq : qx = px ∧ qy = py <;> simp [hq, h]
  · next h =>
    rw [Bool.not_eq_true] at h
    rw [h, Bool.false_and, Bool.xor_false]

/-- One sprite pixel collides exactly when it turns a set cell off. -/
theorem collision_drawPixel (on : Bool) (c : Canvas) :
    (drawPixel px py on c).2 =
      (c.2 || (on && decide (px < 64) && decide (py < 32) && pixel c.1 px py)) := by
  unfold drawPixel
  split <;> simp_all

end Sys2Proof.Machine
end

