-- ==== Sys2Proof/Laws/PerInstr.lean ====
section
/-!
SUPPORT. The per-instruction family MatchesRow: the word of each instruction has the fixed bits of the
instruction's own row of the opcode table (30_encoding.md R74), whatever its operands.
-/

namespace Sys2Proof.Laws.MatchesRow

/-- The word of `i` hits row number `i.rowIndex` of the table. -/
def Statement (i : Instr) : Prop :=
  ∃ r, opcodeTable[i.rowIndex]? = some r ∧ encode i &&& r.mask = r.pattern

theorem cls : Statement .cls := ⟨_, rfl, rfl⟩

theorem ret : Statement .ret := ⟨_, rfl, rfl⟩

theorem jp (nnn : Addr12) : Statement (.jp nnn) :=
  ⟨_, rfl, encodeNNN_and _ _⟩

theorem call (nnn : Addr12) : Statement (.call nnn) :=
  ⟨_, rfl, encodeNNN_and _ _⟩

theorem seImm (x : Reg) (nn : Byte) : Statement (.seImm x nn) :=
  ⟨_, rfl, encodeXNN_and _ _ _⟩

theorem sneImm (x : Reg) (nn : Byte) : Statement (.sneImm x nn) :=
  ⟨_, rfl, encodeXNN_and _ _ _⟩

theorem seReg (x y : Reg) : Statement (.seReg x y) :=
  ⟨_, rfl, encodeXY_and_nibble _ _ _ _⟩

theorem ldImm (x : Reg) (nn : Byte) : Statement (.ldImm x nn) :=
  ⟨_, rfl, encodeXNN_and _ _ _⟩

theorem addImm (x : Reg) (nn : Byte) : Statement (.addImm x nn) :=
  ⟨_, rfl, encodeXNN_and _ _ _⟩

theorem ldReg (x y : Reg) : Statement (.ldReg x y) :=
  ⟨_, rfl, encodeXY_and_nibble _ _ _ _⟩

theorem orReg (x y : Reg) : Statement (.orReg x y) :=
  ⟨_, rfl, encodeXY_and_nibble _ _ _ _⟩

theorem andReg (x y : Reg) : Statement (.andReg x y) :=
  ⟨_, rfl, encodeXY_and_nibble _ _ _ _⟩

theorem xorReg (x y : Reg) : Statement (.xorReg x y) :=
  ⟨_, rfl, encodeXY_and_nibble _ _ _ _⟩

theorem addReg (x y : Reg) : Statement (.addReg x y) :=
  ⟨_, rfl, encodeXY_and_nibble _ _ _ _⟩

theorem subReg (x y : Reg) : Statement (.subReg x y) :=
  ⟨_, rfl, encodeXY_and_nibble _ _ _ _⟩

theorem shrReg (x y : Reg) : Statement (.shrReg x y) :=
  ⟨_, rfl, encodeXY_and_nibble _ _ _ _⟩

theorem subnReg (x y : Reg) : Statement (.subnReg x y) :=
  ⟨_, rfl, encodeXY_and_nibble _ _ _ _⟩

theorem shlReg (x y : Reg) : Statement (.shlReg x y) :=
  ⟨_, rfl, encodeXY_and_nibble _ _ _ _⟩

theorem sneReg (x y : Reg) : Statement (.sneReg x y) :=
  ⟨_, rfl, encodeXY_and_nibble _ _ _ _⟩

theorem ldI (nnn : Addr12) : Statement (.ldI nnn) :=
  ⟨_, rfl, encodeNNN_and _ _⟩

theorem jpV0 (nnn : Addr12) : Statement (.jpV0 nnn) :=
  ⟨_, rfl, encodeNNN_and _ _⟩

theorem rnd (x : Reg) (nn : Byte) : Statement (.rnd x nn) :=
  ⟨_, rfl, encodeXNN_and _ _ _⟩

theorem drw (x y : Reg) (n : Nibble) : Statement (.drw x y n) :=
  ⟨_, rfl, encodeXY_and_major _ _ _ _⟩

theorem skp (x : Reg) : Statement (.skp x) :=
  ⟨_, rfl, encodeXNN_and_byte _ _ _⟩

theorem sknp (x : Reg) : Statement (.sknp x) :=
  ⟨_, rfl, encodeXNN_and_byte _ _ _⟩

theorem ldVxDT (x : Reg) : Statement (.ldVxDT x) :=
  ⟨_, rfl, encodeXNN_and_byte _ _ _⟩

theorem ldVxK (x : Reg) : Statement (.ldVxK x) :=
  ⟨_, rfl, encodeXNN_and_byte _ _ _⟩

theorem ldDTVx (x : Reg) : Statement (.ldDTVx x) :=
  ⟨_, rfl, encodeXNN_and_byte _ _ _⟩

theorem ldSTVx (x : Reg) : Statement (.ldSTVx x) :=
  ⟨_, rfl, encodeXNN_and_byte _ _ _⟩

theorem addIVx (x : Reg) : Statement (.addIVx x) :=
  ⟨_, rfl, encodeXNN_and_byte _ _ _⟩

theorem ldFVx (x : Reg) : Statement (.ldFVx x) :=
  ⟨_, rfl, encodeXNN_and_byte _ _ _⟩

theorem ldBVx (x : Reg) : Statement (.ldBVx x) :=
  ⟨_, rfl, encodeXNN_and_byte _ _ _⟩

theorem storeRegs (x : Reg) : Statement (.storeRegs x) :=
  ⟨_, rfl, encodeXNN_and_byte _ _ _⟩

theorem loadRegs (x : Reg) : Statement (.loadRegs x) :=
  ⟨_, rfl, encodeXNN_and_byte _ _ _⟩

end Sys2Proof.Laws.MatchesRow
end

