-- ==== Sys2Proof/Laws/Step.lean ====
section
/-!
SUPPORT. What a cycle and a step can do, said once; the frame tick, the poll and the reset.
-/

namespace Sys2Proof.Machine

variable {s t : State}

/-- A cycle that continues: the fetch was in range, the word known, and its instruction answered. -/
theorem cycle_eq_next (h : cycle s = .next t) :
    ∃ op i, fetch s = some op ∧ decode op = some i ∧ exec i s = .next t := by
  unfold cycle at h
  split at h
  · cases h
  · split at h
    · cases h
    · exact ⟨_, _, ‹_›, ‹_›, h⟩

/-- A cycle that halts: out of range, unknown, or the instruction's own check (R303). -/
theorem cycle_eq_fault {f : Fault} (h : cycle s = .fault f) :
    (fetch s = none ∧ f = .fetchOutOfRange s.pc) ∨
    (∃ op, fetch s = some op ∧ decode op = none ∧ f = .unknownOpcode op s.pc) ∨
    (∃ op i, fetch s = some op ∧ decode op = some i ∧ exec i s = .fault f) := by
  unfold cycle at h
  split at h
  · exact .inl ⟨‹_›, by cases h; rfl⟩
  · split at h
    · exact .inr (.inl ⟨_, ‹_›, ‹_›, by cases h; rfl⟩)
    · exact .inr (.inr ⟨_, _, ‹_›, ‹_›, h⟩)

/-- A cycle runs the instruction it fetches. -/
theorem cycle_of_fetch {op : Word} {i : Instr} (hf : fetch s = some op) (hd : decode op = some i) :
    cycle s = exec i s := by
  simp [cycle, hf, hd]

/-- A step that continues: the window was open, and one cycle, after the poll, continued. -/
theorem step_eq_next (h : step s = .next t) :
    s.input.isOpen = true ∧ ∃ u, cycle s.poll = .next u ∧ t = u.endIteration := by
  unfold step iteration at h
  split at h
  · exact ⟨‹_›, mapNext_eq_next.1 h⟩
  · cases h

/-- A tick that is due is the frame tick. -/
@[simp] theorem State.tickWhen_true : s.tickWhen true = s.frameTick := rfl

/-- A tick that is not due changes nothing. -/
@[simp] theorem State.tickWhen_false : s.tickWhen false = s := rfl

/-- A timer counts down by one and stays at 0 (R311). -/
theorem countDown_toNat (t : Byte) : (countDown t).toNat = t.toNat - 1 := by
  unfold countDown
  split
  · next h => simp [h]
  · next h =>
    have := t.isLt
    have h0 : t.toNat ≠ 0 := fun h' => h (BitVec.eq_of_toNat_eq (by simpa using h'))
    simp only [BitVec.toNat_sub, BitVec.toNat_ofNat]
    omega

/-- The fetch sees `pc`, memory and the font alone. -/
theorem fetch_congr (hp : s.pc = t.pc) (hm : s.mem = t.mem) (hc : s.cfg = t.cfg) : fetch s = fetch t := by
  simp only [fetch, State.readByte, hp, hm, hc]

/-- The fetch does not see the poll. -/
@[simp] theorem fetch_poll : fetch s.poll = fetch s := rfl

/-- The poll does not change the coming inputs. -/
@[simp] theorem input_poll : s.poll.input = s.input := rfl

/-- The fetch succeeds exactly up to 0xFFE (R100). -/
theorem fetch_eq_none : fetch s = none ↔ 0xFFF ≤ s.pc.toNat := by
  unfold fetch; split <;> simp <;> omega

/-- Reset memory is in its form, and reads as FONT and zeros (R36). -/
theorem resetWith_memWf (cfg : Config) : (State.resetWith cfg).memWf := Memory.wf_nil

theorem resetWith_readByte (cfg : Config) (a : Nat) :
    (State.resetWith cfg).readByte a = Memory.unlisted cfg.font a := rfl

end Sys2Proof.Machine
end

