-- ==== Sys2Proof/Laws/Run.lean ====
section
/-!
SUPPORT. What the boot, a listed line of inputs and a tick schedule do.
-/

namespace Sys2Proof.Machine

variable {s t : State} {o : Result}

/-- The outcome of `andThen` is a next state exactly when both parts answer one. -/
theorem andThen_eq_next {f : State → Result} : andThen o f = .next t ↔ ∃ u, o = .next u ∧ f u = .next t := by
  cases o <;> simp [andThen]

/-- The line faced is the coming input. -/
@[simp] theorem State.input_facing (e : EnvInput) : (s.facing e).input = e := rfl

/-- A fetch does not see the inputs. -/
@[simp] theorem fetch_facing (e : EnvInput) : fetch (s.facing e) = fetch s := rfl

/-- A load answers `ProgramTooLarge` exactly above 3584 bytes, and else writes the bytes (R401). -/
theorem State.load_eq (bytes : List Byte) :
    s.load bytes = if 3584 < bytes.length then (.programTooLarge, s) else (.ok, s.writeBytes 0x200 bytes) := by
  rw [State.load, progStart, memSize]
  by_cases h : 3584 < bytes.length
  · rw [if_pos h, if_pos (by omega)]
  · rw [if_neg h, if_neg (by omega)]

/-- A list of loads goes on only past a load that fits. -/
theorem State.loadAll_cons (p : List Byte) (rest : List (List Byte)) :
    s.loadAll (p :: rest) =
      if 3584 < p.length then .refused .failedLoad else (s.writeBytes 0x200 p).loadAll rest := by
  rw [State.loadAll, State.load_eq]
  by_cases h : 3584 < p.length <;> simp [h]

/-- A schedule with a tick after every `c`-th cycle ticks for ever (R313). -/
theorem ticksForever_of_ticksEvery {c : Nat} {e : Environment} (hc : 0 < c) (h : TicksEvery c e) :
    TicksForever e := fun n =>
  ⟨(n + 1) * c - 1, by have := Nat.le_mul_of_pos_right (n + 1) hc; omega, by
    rw [h, Nat.sub_add_cancel (Nat.mul_pos n.succ_pos hc), Nat.mul_mod_left]; rfl⟩

/-- A state stalls exactly when the word at `pc` is a `Dxyn` and the throttle stalls it. -/
theorem State.stalls_iff :
    s.stalls = true ↔
      (∃ w x y n, fetch s = some w ∧ decode w = some (.drw x y n)) ∧ s.throttled = true := by
  simp only [State.stalls, Bool.and_eq_true, and_congr_left_iff]
  intro _
  constructor
  · intro h
    cases hf : fetch s with
    | none => simp [hf] at h
    | some w =>
      cases hd : decode w with
      | none => simp [hf, hd] at h
      | some i =>
        rw [hf, Option.bind_some, hd, Option.any_some] at h
        cases i <;> first | exact ⟨_, _, _, _, rfl, hd⟩ | cases h
  · rintro ⟨w, x, y, n, hf, hd⟩
    simp [hf, hd, isDraw]

end Sys2Proof.Machine
end

