-- ==== Sys2Proof/Tests/Slice0.lean ====
section
/-!
SUPPORT. Tests: ill-formed words, the decoding of a word written out for each constructor, single steps on the
spec's own vectors (95_test_vectors.md), and for every obligation with hypotheses a witness that meets them.
-/

namespace Sys2Proof.Tests

open Sys2Proof.Machine

/-! ## WellFormed: one ill-formed word for each check, refused also by the decoder (R75, V5 to V11) -/

theorem test_illFormed_major0 :
    wellFormedWord 0x01E0#16 = false ∧ wellFormedWord 0x0000#16 = false ∧ decode 0x01E0#16 = none := by decide

theorem test_illFormed_major5 : wellFormedWord 0x5AB1#16 = false ∧ decode 0x5AB1#16 = none := by decide

theorem test_illFormed_major8 :
    wellFormedWord 0x8008#16 = false ∧ wellFormedWord 0x812F#16 = false ∧ decode 0x8008#16 = none := by decide

theorem test_illFormed_major9 : wellFormedWord 0x9AB8#16 = false ∧ decode 0x9AB8#16 = none := by decide

theorem test_illFormed_majorE : wellFormedWord 0xE09F#16 = false ∧ decode 0xE09F#16 = none := by decide

theorem test_illFormed_majorF :
    wellFormedWord 0xF000#16 = false ∧ wellFormedWord 0xFFFF#16 = false ∧ decode 0xF000#16 = none := by decide

theorem test_wellFormed_accepts :
    wellFormedWord 0x00E0#16 = true ∧ wellFormedWord 0x800E#16 = true ∧ wellFormedWord 0xFF65#16 = true := by
  decide

/-! ## Decode: one word for each constructor, its bits written out from the rule's encoding line -/

/-- The encoding line of R190. -/
theorem test_decode_cls : decode 0b0000000011100000#16 = some .cls := by decide

/-- The encoding line of R120. -/
theorem test_decode_ret : decode 0b0000000011101110#16 = some .ret := by decide

/-- The encoding line of R121. -/
theorem test_decode_jp : decode 0b0001101010111100#16 = some (.jp 0xABC#12) := by decide

/-- The encoding line of R122. -/
theorem test_decode_call : decode 0b0010001000010000#16 = some (.call 0x210#12) := by decide

/-- The encoding line of R123. -/
theorem test_decode_seImm : decode 0b0011000100000101#16 = some (.seImm 1 0x05#8) := by decide

/-- The encoding line of R124. -/
theorem test_decode_sneImm : decode 0b0100001000000111#16 = some (.sneImm 2 0x07#8) := by decide

/-- The encoding line of R125. -/
theorem test_decode_seReg : decode 0b0101001101000000#16 = some (.seReg 3 4) := by decide

/-- The encoding line of R142. -/
theorem test_decode_ldImm : decode 0b0110101000101111#16 = some (.ldImm 0xA 0x2F#8) := by decide

/-- The encoding line of R143. -/
theorem test_decode_addImm : decode 0b0111000111111111#16 = some (.addImm 1 0xFF#8) := by decide

/-- The encoding line of R144. -/
theorem test_decode_ldReg : decode 0b1000000100100000#16 = some (.ldReg 1 2) := by decide

/-- The encoding line of R145. -/
theorem test_decode_orReg : decode 0b1000000100100001#16 = some (.orReg 1 2) := by decide

/-- The encoding line of R146. -/
theorem test_decode_andReg : decode 0b1000000100100010#16 = some (.andReg 1 2) := by decide

/-- The encoding line of R147. -/
theorem test_decode_xorReg : decode 0b1000000100100011#16 = some (.xorReg 1 2) := by decide

/-- The encoding line of R148. -/
theorem test_decode_addReg : decode 0b1000000100100100#16 = some (.addReg 1 2) := by decide

/-- The encoding line of R149. -/
theorem test_decode_subReg : decode 0b1000000100100101#16 = some (.subReg 1 2) := by decide

/-- The encoding line of R150. -/
theorem test_decode_shrReg : decode 0b1000000100100110#16 = some (.shrReg 1 2) := by decide

/-- The encoding line of R151. -/
theorem test_decode_subnReg : decode 0b1000000100100111#16 = some (.subnReg 1 2) := by decide

/-- The encoding line of R152. -/
theorem test_decode_shlReg : decode 0b1000000100101110#16 = some (.shlReg 1 2) := by decide

/-- The encoding line of R126. -/
theorem test_decode_sneReg : decode 0b1001001101000000#16 = some (.sneReg 3 4) := by decide

/-- The encoding line of R170. -/
theorem test_decode_ldI : decode 0b1010001100000000#16 = some (.ldI 0x300#12) := by decide

/-- The encoding line of R127. -/
theorem test_decode_jpV0 : decode 0b1011111111111110#16 = some (.jpV0 0xFFE#12) := by decide

/-- The encoding line of R155. -/
theorem test_decode_rnd : decode 0b1100001100001111#16 = some (.rnd 3 0x0F#8) := by decide

/-- The encoding line of R191. -/
theorem test_decode_drw : decode 0b1101000100101111#16 = some (.drw 1 2 15#4) := by decide

/-- The encoding line of R210. -/
theorem test_decode_skp : decode 0b1110010110011110#16 = some (.skp 5) := by decide

/-- The encoding line of R211. -/
theorem test_decode_sknp : decode 0b1110010110100001#16 = some (.sknp 5) := by decide

/-- The encoding line of R212. -/
theorem test_decode_ldVxDT : decode 0b1111000100000111#16 = some (.ldVxDT 1) := by decide

/-- The encoding line of R213. -/
theorem test_decode_ldVxK : decode 0b1111111100001010#16 = some (.ldVxK 0xF) := by decide

/-- The encoding line of R214. -/
theorem test_decode_ldDTVx : decode 0b1111001000010101#16 = some (.ldDTVx 2) := by decide

/-- The encoding line of R215. -/
theorem test_decode_ldSTVx : decode 0b1111001000011000#16 = some (.ldSTVx 2) := by decide

/-- The encoding line of R171. -/
theorem test_decode_addIVx : decode 0b1111001000011110#16 = some (.addIVx 2) := by decide

/-- The encoding line of R172. -/
theorem test_decode_ldFVx : decode 0b1111001100101001#16 = some (.ldFVx 3) := by decide

/-- The encoding line of R173. -/
theorem test_decode_ldBVx : decode 0b1111010000110011#16 = some (.ldBVx 4) := by decide

/-- The encoding line of R174. -/
theorem test_decode_storeRegs : decode 0b1111111001010101#16 = some (.storeRegs 0xE) := by decide

/-- The encoding line of R175. -/
theorem test_decode_loadRegs : decode 0b1111111001100101#16 = some (.loadRegs 0xE) := by decide

/-- Bytes are big-endian (R51); the bytes after the instruction are left over. -/
theorem test_decodeBytes :
    decodeBytes [0xA1#8, 0x23#8, 0x77#8] = .ok (.ldI 0x123#12, [0x77#8]) := by decide

theorem test_decodeBytes_unknown :
    decodeBytes [0x00#8, 0x00#8] = .error (.unknownOpcode 0x0000#16) := by decide

theorem test_decodeBytes_short : decodeBytes [0xA1#8] = .error .tooShort := by decide

theorem test_decodeTableWord : decodeTableWord 16 0xD12F = some (.drw 1 2 15#4) := by decide

/-! ## Single steps: the vectors of 95_test_vectors.md -/

/-- The start of every vector: reset, with one quiet line of inputs. -/
def start : State := { State.reset with env := [quietInput] }

/-- `start` with some registers written. -/
def startV (l : List (Reg × Byte)) : State := l.foldl (fun s p => s.setV p.1 p.2) start

/-- `start` with keys held down. -/
def startKeys (down : List Reg) : State :=
  { start with env := [{ quietInput with keysIn := Vector.ofFn fun k => decide (k ∈ down) }] }

/-- The same state with `i` set. -/
def atI (w : Word) (s : State) : State := s.setI w

/-- One step with a word placed at `pc`, and a field of the next state. -/
def look {α : Type} (w : Nat) (s : State) (f : State → α) : Option α :=
  match step (s.withFetchWord 16 w) with
  | .next t => some (f t)
  | _ => none

/-- The fault of an outcome. -/
def faultOf (o : Result) : Option Fault :=
  match o with
  | .fault f => some f
  | _ => none

/-- The fault of one step with a word placed at `pc`. -/
def stops (w : Nat) (s : State) : Option Fault := faultOf (step (s.withFetchWord 16 w))

/-- `v[r]` and VF. -/
def regAndFlag (r : Reg) (s : State) : Byte × Byte := (s.v[r], s.v[15])

/-- E1. -/
theorem test_reset :
    State.reset.pc = 0x200#16 ∧ State.reset.sp = 0 ∧ State.reset.i = 0#16 ∧
      State.reset.readByte 0x50 = 0xF0#8 ∧ State.reset.readByte 0x9C = 0x80#8 ∧
      State.reset.readByte 0x9F = 0x80#8 ∧ State.reset.readByte 0xA0 = 0#8 := by decide

/-- V1: a fetch at 0xFFE is in range. -/
theorem test_fetch_last :
    faultOf (step { start with pc := 0xFFE#16 }) = some (.unknownOpcode 0#16 0xFFE#16) := by decide

/-- V2: a fetch at 0xFFF is not. -/
theorem test_fetch_end :
    faultOf (step { start with pc := 0xFFF#16 }) = some (.fetchOutOfRange 0xFFF#16) := by decide

/-- V5, with the report of R302. -/
theorem test_unknown : stops 0x0000 start = some (.unknownOpcode 0x0000#16 0x200#16) ∧
    haltSignal (.unknownOpcode 0x0000#16 0x200#16) = some ⟨0#3, some 0#16, 0x200#16⟩ := by decide

/-- E3, on one cell. -/
theorem test_cls : look 0x00E0 { start with gfx := Vector.replicate 32 1#64 }
    (fun t => (pixel t.gfx 0 31, t.pc)) = some (false, 0x202#16) := by decide

/-- V20. -/
theorem test_jp : look 0x1ABC start State.pc = some 0xABC#16 := by decide

/-- V22. -/
theorem test_call : look 0x2400 start (fun t => (t.stack[0], t.sp, t.pc)) =
    some (0x202#16, 1, 0x400#16) := by decide

/-- V23. -/
theorem test_call_full : stops 0x2400 { start with sp := 16 } = some (.stackOverflow 0x2400#16 0x200#16) := by
  decide

/-- V24. -/
theorem test_ret : look 0x00EE { start with sp := 1, stack := start.stack.set 0 0x202#16 }
    (fun t => (t.stack[0], t.sp, t.pc)) = some (0x202#16, 0, 0x202#16) := by decide

/-- V25. -/
theorem test_ret_empty : stops 0x00EE start = some (.stackUnderflow 0x00EE#16 0x200#16) := by decide

/-- V26, V27. -/
theorem test_seImm : look 0x3105 (startV [(1, 5#8)]) State.pc = some 0x204#16 ∧
    look 0x3105 (startV [(1, 4#8)]) State.pc = some 0x202#16 := by decide

/-- V28, V29. -/
theorem test_sneImm : look 0x4105 (startV [(1, 4#8)]) State.pc = some 0x204#16 ∧
    look 0x4105 (startV [(1, 5#8)]) State.pc = some 0x202#16 := by decide

/-- V30, and unequal operands (R125). -/
theorem test_seReg : look 0x5120 (startV [(1, 7#8), (2, 7#8)]) State.pc = some 0x204#16 ∧
    look 0x5120 (startV [(1, 7#8)]) State.pc = some 0x202#16 := by decide

/-- V32, V33. -/
theorem test_sneReg : look 0x9120 (startV [(1, 7#8), (2, 8#8)]) State.pc = some 0x204#16 ∧
    look 0x9110 start State.pc = some 0x202#16 := by decide

/-- V35. -/
theorem test_jpV0 : look 0xBFFF (startV [(0, 0xFF#8)]) State.pc = some 0x10FE#16 := by decide

/-- V40. -/
theorem test_ldImm : look 0x6A42 start (fun t => (t.v[10], t.pc)) = some (0x42#8, 0x202#16) := by decide

/-- V42: no carry flag. -/
theorem test_addImm : look 0x7A02 (startV [(10, 0xFF#8), (15, 1#8)]) (regAndFlag 10) = some (1#8, 1#8) := by
  decide

/-- V44. -/
theorem test_ldReg : look 0x8120 (startV [(2, 9#8)]) (regAndFlag 1) = some (9#8, 0#8) := by decide

/-- V45. -/
theorem test_orReg : look 0x8121 (startV [(1, 0xF0#8), (2, 0x0F#8), (15, 1#8)]) (regAndFlag 1) =
    some (0xFF#8, 0#8) := by decide

/-- V48: the flag overwrites the result. -/
theorem test_orReg_vf : look 0x8F01 (startV [(15, 0x80#8), (0, 1#8)]) (regAndFlag 0) = some (1#8, 0#8) := by
  decide

/-- V46. -/
theorem test_andReg : look 0x8122 (startV [(1, 0xF0#8), (2, 0x3C#8), (15, 1#8)]) (regAndFlag 1) =
    some (0x30#8, 0#8) := by decide

/-- V47. -/
theorem test_xorReg : look 0x8123 (startV [(1, 0xFF#8), (2, 0x0F#8), (15, 1#8)]) (regAndFlag 1) =
    some (0xF0#8, 0#8) := by decide

/-- V49. -/
theorem test_addReg : look 0x8014 (startV [(0, 0xFF#8), (1, 0xFF#8)]) (regAndFlag 0) =
    some (0xFE#8, 1#8) := by decide

/-- V51: the carry is VF's last value. -/
theorem test_addReg_vf : look 0x8F04 (startV [(15, 0x10#8), (0, 0x20#8)]) (regAndFlag 0) =
    some (0x20#8, 0#8) := by decide

/-- V52, V53. -/
theorem test_subReg : look 0x8015 (startV [(0, 5#8), (1, 5#8)]) (regAndFlag 0) = some (0#8, 1#8) ∧
    look 0x8015 (startV [(0, 5#8), (1, 7#8)]) (regAndFlag 0) = some (0xFE#8, 0#8) := by decide

/-- V54. -/
theorem test_subReg_vf : look 0x8F05 (startV [(15, 3#8), (0, 1#8)]) (regAndFlag 0) = some (1#8, 1#8) := by
  decide

/-- V55, V56. -/
theorem test_subnReg : look 0x8017 (startV [(0, 5#8), (1, 7#8)]) (regAndFlag 0) = some (2#8, 1#8) ∧
    look 0x8017 (startV [(0, 7#8), (1, 5#8)]) (regAndFlag 0) = some (0xFE#8, 0#8) := by decide

/-- V57. -/
theorem test_shrReg : look 0x8016 (startV [(1, 5#8)]) (regAndFlag 0) = some (2#8, 1#8) := by decide

/-- V58: the other setting of SHIFT_USES_VY. -/
theorem test_shrReg_vx :
    look 0x8016 { startV [(0, 4#8), (1, 5#8)] with cfg := { Config.standard with shiftUsesVy := false } }
      (regAndFlag 0) = some (2#8, 0#8) := by decide

/-- V59. -/
theorem test_shlReg : look 0x801E (startV [(1, 0x81#8)]) (regAndFlag 0) = some (2#8, 1#8) := by decide

/-- R152 with `x` = `y` = 0xF: bit 7 of the old VF. -/
theorem test_shlReg_vf : look 0x8FFE (startV [(15, 0x80#8)]) (regAndFlag 15) = some (1#8, 1#8) := by decide

/-- V64. -/
theorem test_rnd : look 0xC00F { start with env := [{ quietInput with rnd := 0xAB#8 }] } (regAndFlag 0) =
    some (0x0B#8, 0#8) := by decide

/-- V70. -/
theorem test_ldI : look 0xA123 start (fun t => (t.i, t.pc)) = some (0x123#16, 0x202#16) := by decide

/-- V71. -/
theorem test_addIVx : look 0xF01E (atI 0xFFE#16 (startV [(0, 3#8)])) (fun t => (t.i, t.v[15])) =
    some (0x1001#16, 0#8) := by decide

/-- V72. -/
theorem test_addIVx_halt : stops 0xF01E (atI 0xFFFF#16 (startV [(0, 1#8)])) =
    some (.indexOverflow 0xF01E#16 0x200#16) := by decide

/-- E9, V75. -/
theorem test_ldFVx : look 0xF029 (startV [(0, 3#8)]) State.i = some 0x5F#16 ∧
    look 0xF029 (startV [(0, 0xFF#8)]) State.i = some 0x54B#16 := by decide

/-- V78. -/
theorem test_ldBVx : look 0xF033 (atI 0xFFD#16 (startV [(0, 123#8)]))
    (fun t => (t.readByte 0xFFD, t.readByte 0xFFE, t.readByte 0xFFF)) = some (1#8, 2#8, 3#8) := by decide

/-- V79. -/
theorem test_ldBVx_halt : stops 0xF033 (atI 0xFFE#16 (startV [(0, 1#8)])) =
    some (.memoryOutOfRange 0xF033#16 0x200#16) := by decide

/-- V80. -/
theorem test_storeRegs : look 0xF255 (atI 0x300#16 (startV [(0, 1#8), (1, 2#8), (2, 3#8)]))
    (fun t => (t.readByte 0x300, t.readByte 0x302, t.readByte 0x303, t.i)) =
      some (1#8, 3#8, 0#8, 0x303#16) := by decide

/-- V83. -/
theorem test_storeRegs_halt : stops 0xF155 (atI 0xFFF#16 start) =
    some (.memoryOutOfRange 0xF155#16 0x200#16) := by decide

/-- V84, and with `i` kept (R176). -/
theorem test_loadRegs : look 0xF265 (atI 0x300#16 (start.writeBytes 0x300 [9#8, 8#8, 7#8, 6#8]))
    (fun t => (t.v[0], t.v[2], t.v[3], t.i)) = some (9#8, 7#8, 0#8, 0x303#16) := by decide

theorem test_loadRegs_keepI :
    look 0xF265 (atI 0x300#16 { start with cfg := { Config.standard with ldstIncrementsI := false } }) State.i =
      some 0x300#16 := by decide

/-- V91: the start position wraps. -/
theorem test_drw_wraps :
    look 0xD011 (atI 0x300#16 ((startV [(0, 70#8), (1, 40#8)]).writeBytes 0x300 [0x80#8]))
      (fun t => (pixel t.gfx 6 8, pixel t.gfx 7 8, t.v[15])) = some (true, false, 0#8) := by decide

/-- V92 on a screen with that cell set: bit 7 is leftmost, the next pixel is clipped, and the cell turned off
is a collision (R191). -/
theorem test_drw_collides :
    look 0xD011 (atI 0x300#16 ({ startV [(0, 63#8), (1, 31#8)] with
        gfx := togglePixel start.gfx 63 31 }.writeBytes 0x300 [0xC0#8]))
      (fun t => (pixel t.gfx 63 31, pixel t.gfx 0 31, t.v[15])) = some (false, false, 1#8) := by decide

/-- V95: with the stall presented nothing changes. -/
theorem test_drw_stalls : execDrw 0 1 5#4 (atI 0x50#16 { start with env := [{ quietInput with stall := true }] }) =
    .next (atI 0x50#16 { start with env := [{ quietInput with stall := true }] }) := rfl

/-- V93: clipped rows are checked too. -/
theorem test_drw_halt : stops 0xD015 (atI 0xFFD#16 (startV [(1, 30#8)])) =
    some (.memoryOutOfRange 0xD015#16 0x200#16) := by decide

/-- V100, V101. -/
theorem test_skp : look 0xE09E ((startKeys [3]).setV 0 3#8) State.pc = some 0x204#16 ∧
    look 0xE09E (startV [(0, 3#8)]) State.pc = some 0x202#16 := by decide

/-- V104. -/
theorem test_skp_halt : stops 0xE09E (startV [(0, 0x10#8)]) = some (.keyOutOfRange 0xE09E#16 0x200#16) := by
  decide

/-- V102, V103. -/
theorem test_sknp : look 0xE0A1 (startV [(0, 3#8)]) State.pc = some 0x204#16 ∧
    look 0xE0A1 ((startKeys [3]).setV 0 3#8) State.pc = some 0x202#16 := by decide

/-- V105. -/
theorem test_ldVxDT : look 0xF107 { start with delayTimer := 0x3C#8 } (fun t => t.v[1]) = some 0x3C#8 := by
  decide

/-- E11: the lowest key. -/
theorem test_ldVxK : look 0xF30A (startKeys [5, 9]) (fun t => (t.v[3], t.pc)) = some (5#8, 0x202#16) := by decide

/-- E11: no key. -/
theorem test_ldVxK_stalls : look 0xF30A start (fun t => (t.v[3], t.pc)) = some (0#8, 0x200#16) := by decide

/-- V107, and with a tick in the same iteration (R214). -/
theorem test_ldDTVx : look 0xF015 (startV [(0, 0x3C#8)]) State.delayTimer = some 0x3C#8 ∧
    look 0xF015 { startV [(0, 1#8)] with env := [{ quietInput with frameDue := true }] } State.delayTimer =
      some 0#8 := by decide

/-- V108. -/
theorem test_ldSTVx : look 0xF018 (startV [(0, 5#8)]) State.soundTimer = some 5#8 := by decide

/-- V109. -/
theorem test_frameTick :
    ({ start with delayTimer := 1#8 } : State).frameTick.delayTimer = 0#8 ∧ start.frameTick.soundTimer = 0#8 := by
  decide

/-- D24: the window closed. -/
theorem test_closed :
    faultOf (step { start with env := [{ quietInput with isOpen := false }] }) = some .closed := by decide

/-- E2: a program at 0x200. -/
theorem test_load : (State.reset.load [0x12#8, 0x34#8]).1 = .ok ∧
    (State.reset.load [0x12#8, 0x34#8]).2.readByte 0x201 = 0x34#8 := by decide

/-- R403, E2: the boot leaves the program at 0x200 and `pc` there. -/
theorem test_boot : (match boot start [[0x12#8, 0x34#8]] with
    | .next t => some (t.readByte 0x200, t.readByte 0x201, t.pc)
    | _ => none) = some (0x12#8, 0x34#8, 0x200#16) := by decide

/-! ## Witnesses: for each obligation with hypotheses, a state and operands that meet them, at the edges -/

/-- `start` with the configuration's three quirks off. -/
def startPlain : State :=
  { start with
    cfg := { Config.standard with shiftUsesVy := false, ldstIncrementsI := false, drawThrottle := false } }

theorem witness_EncodeOfDecodeIsTheWord : decode 0xD12F#16 = some (.drw 1 2 15#4) := by decide

theorem witness_DecodeFollowsTheOpcodeTable :
    decode 0x8AB6#16 = some (.shrReg 0xA 0xB) ∧ decode 0x8AB8#16 = none := by decide

theorem witness_FetchReadsTheBigEndianWord :
    ({ start with pc := 0xFFE#16 } : State).pc.toNat + 1 ≤ 0xFFF ∧
    ({ start with pc := 0x201#16 } : State).pc.toNat + 1 ≤ 0xFFF := by decide

theorem witness_FetchPastTheEndHalts :
    0xFFF ≤ ({ start with pc := 0xFFF#16 } : State).pc.toNat ∧
    0xFFF ≤ ({ start with pc := 0xFFFF#16 } : State).pc.toNat := by decide

theorem witness_UnknownOpcodeHalts : fetch start = some 0x0000#16 ∧ decode 0x0000#16 = none := by decide

/-- `start` with the word 8014 placed at `pc`. -/
def startAdd : State := start.withFetchWord 16 0x8014

theorem witness_StepRunsTheDecodedInstruction :
    startAdd.input.isOpen = true ∧ fetch startAdd = some 0x8014#16 ∧
      decode 0x8014#16 = some (.addReg 0 1) := by decide

theorem witness_IterationEndsWithTheDueTick :
    ({ start with env := [{ quietInput with frameDue := true }] } : State).input.frameDue = true ∧
    start.input.frameDue = false := by decide

theorem witness_ClosedWindowEndsTheRun :
    ({ start with env := [{ quietInput with isOpen := false }] } : State).input.isOpen = false := by decide

theorem witness_FrameTicksCountDownToZero :
    (∃ t, exec (.ldDTVx 0xF) start = .next t) ∧ (∃ t, exec (.ldSTVx 0) start = .next t) ∧
    ∃ t, exec (.addReg 0 1) start = .next t := ⟨⟨_, rfl⟩, ⟨_, rfl⟩, ⟨_, rfl⟩⟩

/-- A step of `startAdd` answers a next state; the hypotheses of `StepPollsTheKeys` and of
`StepKeepsTheConfiguration`. -/
theorem witness_StepPollsTheKeys : ∃ t, step startAdd = .next t := ⟨_, rfl⟩

theorem witness_StepKeepsTheConfiguration : ∃ t, step startAdd = .next t := ⟨_, rfl⟩

theorem witness_StepKeepsTheInvariant : startAdd.Inv ∧ ∃ t, step startAdd = .next t :=
  ⟨by decide, _, rfl⟩

theorem witness_CallPushesTheReturnAddress :
    start.sp.val < 16 ∧ ({ start with sp := 15 } : State).sp.val < 16 := by decide

theorem witness_RetPopsTheReturnAddress :
    ({ start with sp := 1 } : State).sp.val = (0 : Fin 16).val + 1 ∧
    ({ start with sp := 16 } : State).sp.val = (15 : Fin 16).val + 1 := by decide

theorem witness_CallThenRetReturns :
    start.sp.val < 16 ∧ ({ start with sp := 15 } : State).sp.val < 16 := by decide

theorem witness_SkipsOnRegisters :
    (opH 0x5AB1#16 = 0x5#4 ∧ opN 0x5AB1#16 ≠ 0#4) ∧ opH 0x9ABF#16 = 0x9#4 ∧ opN 0x9ABF#16 ≠ 0#4 := by decide

/-- The largest sum that fits, and the largest `v[x]`. -/
theorem witness_AddIAddsWithoutAFlag :
    (atI 0xFFFF#16 start).i.toNat + (atI 0xFFFF#16 start).v[0].toNat ≤ 0xFFFF ∧
    (atI 0xFF00#16 (startV [(15, 0xFF#8)])).i.toNat + (atI 0xFF00#16 (startV [(15, 0xFF#8)])).v[15].toNat ≤
      0xFFFF := by decide

/-- The last block that fits and the first that does not. -/
theorem witness_LdBStoresTheDecimalDigits :
    (atI 0xFFD#16 start).memWf ∧ (atI 0xFFD#16 start).i.toNat + 2 ≤ 0xFFF ∧
    (atI 0xFFE#16 start).memWf ∧ 0xFFF < (atI 0xFFE#16 start).i.toNat + 2 := by decide

theorem witness_StoreRegsStoresTheBlock :
    (atI 0xFF0#16 start).memWf ∧ (atI 0xFF0#16 start).i.toNat + (15 : Reg).val ≤ 0xFFF ∧
    (atI 0xFF1#16 start).memWf ∧ 0xFFF < (atI 0xFF1#16 start).i.toNat + (15 : Reg).val := by decide

theorem witness_LoadRegsLoadsTheBlock :
    (atI 0xFFF#16 start).i.toNat + (0 : Reg).val ≤ 0xFFF ∧
    0xFFF < (atI 0xFFF#16 start).i.toNat + (1 : Reg).val ∧
    0xFFF < (atI 0x1000#16 startPlain).i.toNat + (0 : Reg).val := by decide

/-- The registers that a program may leave before the load: only those above `x` agree. -/
def clobbered : RegFile := #v[9, 9, 9, 0, 0, 0, 0, 0, 0, 0, 0, 0, 0, 0, 0, 0]

theorem witness_LoadRegsUndoesStoreRegs :
    start.memWf ∧ (∃ t, exec (.storeRegs 2) start = .next t) ∧
      ∀ k : Reg, 2 < k → clobbered[k] = start.v[k] := ⟨by decide, ⟨_, rfl⟩, by decide⟩

theorem witness_BcdDigitsLoadBack :
    (startV [(3, 255#8)]).memWf ∧ ∃ t, exec (.ldBVx 3) (startV [(3, 255#8)]) = .next t :=
  ⟨by decide, _, rfl⟩

theorem witness_StoredBytesAreFetched :
    start.memWf ∧ 1 ≤ (1 : Reg).val ∧ ∃ t, exec (.storeRegs 1) start = .next t := ⟨by decide, by decide, _, rfl⟩

/-- No stall though the throttle is on, and the throttle off; a range up to 0xFFF, and no range at all. -/
theorem witness_DrwXorsTheSprite :
    ((atI 0xFF1#16 start).cfg.drawThrottle = false ∨ (atI 0xFF1#16 start).input.stall = false) ∧
    (15#4 = 0#4 ∨ (atI 0xFF1#16 start).i.toNat + (15#4).toNat - 1 ≤ 0xFFF) ∧
    (startPlain.cfg.drawThrottle = false ∨ startPlain.input.stall = false) ∧
    (0#4 = 0#4 ∨ (atI 0xFFFF#16 startPlain).i.toNat + (0#4).toNat - 1 ≤ 0xFFF) := by decide

theorem witness_ThrottledDrwStalls :
    ({ start with env := [{ quietInput with stall := true }] } : State).cfg.drawThrottle = true ∧
    ({ start with env := [{ quietInput with stall := true }] } : State).input.stall = true := by decide

/-- The premises of the statement and of its last clause, the screen blank. -/
theorem witness_DrawingTwiceRestoresTheScreen :
    (0 : Reg) ≠ 15 ∧ (1 : Reg) ≠ 15 ∧
    ((atI 0x50#16 start).cfg.drawThrottle = false ∨ (atI 0x50#16 start).input.stall = false) ∧
    (∃ t, exec (.drw 0 1 5#4) (atI 0x50#16 start) = .next t) ∧
    ∀ px py, pixel (atI 0x50#16 start).gfx px py = false :=
  ⟨by decide, by decide, by decide, ⟨_, rfl⟩, pixel_blank⟩

theorem witness_KeySkipsTestThePolledKey :
    (startV [(0, 0xF#8)]).v[0].toNat = (15 : Reg).val ∧ start.v[0].toNat = (0 : Reg).val := by decide

/-- No key down; and key 15 alone. -/
theorem witness_KeyWaitTakesTheLowestKey :
    (∀ k : Reg, start.keys[k] = false) ∧
    (startKeys [15]).poll.keys[(15 : Reg)] = true ∧
      ∀ j : Reg, j < 15 → (startKeys [15]).poll.keys[j] = false := by decide

/-- A state for each condition of the list, and one for none. -/
theorem witness_ExecHaltsExactlyAsListed :
    haltOf .ret start = some (.stackUnderflow 0x00EE#16 0x200#16) ∧
    haltOf (.call 0#12) { start with sp := 16 } = some (.stackOverflow 0x2000#16 0x200#16) ∧
    haltOf (.drw 0 0 1#4) (atI 0x1000#16 start) = some (.memoryOutOfRange 0xD001#16 0x200#16) ∧
    haltOf (.drw 0 0 0#4) (atI 0x1000#16 start) = none ∧
    haltOf (.skp 0) (startV [(0, 0x10#8)]) = some (.keyOutOfRange 0xE09E#16 0x200#16) ∧
    haltOf (.sknp 0) (startV [(0, 0x10#8)]) = some (.keyOutOfRange 0xE0A1#16 0x200#16) ∧
    haltOf (.addIVx 0) (atI 0xFFFF#16 (startV [(0, 1#8)])) = some (.indexOverflow 0xF01E#16 0x200#16) ∧
    haltOf (.ldBVx 0) (atI 0xFFE#16 start) = some (.memoryOutOfRange 0xF033#16 0x200#16) ∧
    haltOf (.storeRegs 0) (atI 0x1000#16 start) = some (.memoryOutOfRange 0xF055#16 0x200#16) ∧
    haltOf (.loadRegs 0) (atI 0x1000#16 start) = some (.memoryOutOfRange 0xF065#16 0x200#16) := by decide

theorem witness_HaltReportsTheOpcodeAndPc :
    cycle start = .fault (.unknownOpcode 0#16 0x200#16) ∧
    cycle { start with pc := 0xFFF#16 } = .fault (.fetchOutOfRange 0xFFF#16) := ⟨rfl, rfl⟩

theorem witness_HaltRepeatsUnderAnyInputs :
    cycle (start.writeBytes 0x200 [0x00#8, 0xEE#8]) = .fault (.stackUnderflow 0x00EE#16 0x200#16) ∧
    cycle (atI 0xFFF#16 (start.writeBytes 0x200 [0xD0#8, 0x12#8])) =
      .fault (.memoryOutOfRange 0xD012#16 0x200#16) := ⟨rfl, rfl⟩

theorem witness_ExecWritesOnlyItsElements :
    (∃ t, exec (.loadRegs 2) start = .next t) ∧ (∃ t, exec (.drw 0 1 5#4) start = .next t) ∧
    ∃ t, exec (.storeRegs 2) start = .next t := ⟨⟨_, rfl⟩, ⟨_, rfl⟩, ⟨_, rfl⟩⟩

theorem witness_PcMovesByTheRules :
    (∃ t, exec (.ldVxK 0) start = .next t) ∧ (∃ t, exec (.jpV0 0xFFF#12) start = .next t) ∧
    ∃ t, exec (.seReg 1 1) start = .next t := ⟨⟨_, rfl⟩, ⟨_, rfl⟩, ⟨_, rfl⟩⟩

/-- `startAdd` with a line of inputs listed. -/
def line (rnd : Byte) (stall : Bool) : List EnvInput := [{ quietInput with rnd := rnd, stall := stall }]

/-- An instruction that reads neither input; `Cxnn` with another stall; a `Dxyn` with another random byte, stalled
both times; and a `Dxyn` with the throttle off and another stall. -/
theorem witness_InputsReachOnlyTheirReaders :
    ((∀ x nn, Instr.cls ≠ .rnd x nn) ∧ ∀ x y n, Instr.cls ≠ .drw x y n) ∧
    ((start.withEnvironment start.keys (line 0#8 true) 0).input.rnd = start.input.rnd ∧
      ∀ x y n, Instr.rnd 0 7#8 ≠ .drw x y n) ∧
    ((∀ x nn, Instr.drw 0 1 5#4 ≠ .rnd x nn) ∧
      (({ start with env := line 1#8 true } : State).withEnvironment start.keys (line 2#8 true) 0).input.stall =
        ({ start with env := line 1#8 true } : State).input.stall) ∧
    ((∀ x nn, Instr.drw 0 1 5#4 ≠ .rnd x nn) ∧ startPlain.cfg.drawThrottle = false) :=
  ⟨⟨by simp, by simp⟩, ⟨rfl, by simp⟩, ⟨by simp, rfl⟩, by simp, rfl⟩

theorem witness_KeysReachOnlyTheirReaders :
    ∀ x, Instr.cls ≠ .skp x ∧ Instr.cls ≠ .sknp x ∧ Instr.cls ≠ .ldVxK x := by simp

theorem witness_SoundTimerIsNeverRead : ∀ x, Instr.ldVxDT 0 ≠ .ldSTVx x := by simp

theorem witness_InitializeLeavesTheResetState :
    (startV [(3, 7#8)]).cfg = start.cfg ∧ startV [(3, 7#8)] ≠ start := ⟨rfl, by decide⟩

/-- The longest program that fits, the shortest that does not, and the last byte. -/
theorem witness_LoadPlacesTheProgram :
    State.reset.memWf ∧ (List.replicate 3584 1#8).length ≤ 3584 ∧ 3584 < (List.replicate 3585 1#8).length ∧
    3583 < (List.replicate 3584 1#8).length := by
  refine ⟨by decide, ?_, ?_, ?_⟩ <;> rw [List.length_replicate] <;> omega

theorem witness_RunStartsInTheInvariant : ∃ t, boot start [[0x12#8, 0x00#8], [0x00#8]] = .next t := ⟨_, rfl⟩

/-- One program too long after one that fits; and a last program that fits. -/
theorem witness_NoRunFollowsAFailedLoad :
    (∃ p ∈ [[0x12#8], List.replicate 3585 1#8], 3584 < p.length) ∧
    (∀ p ∈ [[0x12#8], [0x34#8, 0x56#8]], p.length ≤ 3584) ∧
    [[0x12#8], [0x34#8, 0x56#8]].getLast? = some [0x34#8, 0x56#8] ∧ 1 < [0x34#8, 0x56#8].length :=
  ⟨⟨List.replicate 3585 1#8, List.mem_cons_of_mem _ List.mem_cons_self, by rw [List.length_replicate]; omega⟩, by decide, rfl, by decide⟩

theorem witness_StepReadsOneLineOfInputs :
    start.env = quietInput :: [] ∧ State.reset.env = [] := ⟨rfl, rfl⟩

/-! Two infinite runs with a tick in every iteration. -/

/-- The quiet line with a tick due. -/
def ticking : EnvInput := { quietInput with frameDue := true }

/-- The bytes of `6005`, `F015`, `1204`: set the delay timer to 5, then jump to self. -/
def delayProgram : List Byte := [0x60#8, 0x05#8, 0xF0#8, 0x15#8, 0x12#8, 0x04#8]

/-- The state the boot leaves. -/
def delayStart : State := State.reset.initialized.writeBytes 0x200 delayProgram

/-- The delay timer `n` ticks after the one of the iteration that set it. -/
def delayAt : Nat → Byte
  | 0 => 4#8
  | n + 1 => countDown (delayAt n)

/-- The run of `delayProgram`. -/
def delayRun : Nat → State
  | 0 => delayStart
  | 1 => { delayStart.setV 0 5#8 with pc := 0x202#16, drawIndex := 1, frameOut := some delayStart.gfx }
  | n + 2 =>
    { delayStart.setV 0 5#8 with
      pc := 0x204#16, delayTimer := delayAt n, drawIndex := n + 2, frameOut := some delayStart.gfx }

theorem fetch_delayRun (n : Nat) : fetch (delayRun (n + 2)) = some 0x1204#16 :=
  (fetch_congr rfl rfl rfl).trans (by decide : fetch (delayRun 2) = some 0x1204#16)

theorem delayRun_isRun : IsRun (fun _ => ticking) delayRun := by
  refine ⟨⟨State.reset, [delayProgram], rfl⟩, fun n => ?_⟩
  match n with
  | 0 => rfl
  | 1 => rfl
  | n + 2 =>
    have h : fetch ((delayRun (n + 2)).facing ticking).poll = some 0x1204#16 := fetch_delayRun n
    show mapNext _ (cycle ((delayRun (n + 2)).facing ticking).poll) = _
    rw [cycle_of_fetch (i := .jp 0x204#12) h (by decide)]
    rfl

theorem delayRun_fair : FairRun (fun _ => ticking) delayRun :=
  ⟨delayRun_isRun, fun n => ⟨n, le_rfl, rfl⟩, fun n => ⟨n, le_rfl, by
    simp [State.stalls, State.throttled, ticking, quietInput]⟩⟩

theorem witness_FairRunDelayTimerRunsOut :
    FairRun (fun _ => ticking) delayRun ∧
    (∀ m w x, 2 ≤ m → fetch (delayRun m) = some w → decode w ≠ some (.ldDTVx x)) ∧
    (delayRun 2).delayTimer = 4#8 := by
  refine ⟨delayRun_fair, fun m w x hm h => ?_, rfl⟩
  obtain ⟨k, rfl⟩ := Nat.exists_eq_add_of_le' hm
  rw [fetch_delayRun] at h
  cases h
  exact (by decide : ∀ x, decode 0x1204#16 ≠ some (.ldDTVx x)) x

/-- The bytes of `D001`, `1202`: draw, then jump to self. -/
def drawProgram : List Byte := [0xD0#8, 0x01#8, 0x12#8, 0x02#8]

/-- The state the boot leaves. -/
def drawStart : State := State.reset.initialized.writeBytes 0x200 drawProgram

/-- The environment that stalls the first iteration only. -/
def stallOnce (n : Nat) : EnvInput := { ticking with stall := decide (n = 0) }

/-- The run of `drawProgram` against `stallOnce`. -/
def drawRun : Nat → State
  | 0 => drawStart
  | 1 => { drawStart with drawIndex := 1, frameOut := some drawStart.gfx }
  | n + 2 => { drawStart with pc := 0x202#16, drawIndex := n + 2, frameOut := some drawStart.gfx }

theorem fetch_drawRun (n : Nat) : fetch (drawRun (n + 2)) = some 0x1202#16 :=
  (fetch_congr rfl rfl rfl).trans (by decide : fetch (drawRun 2) = some 0x1202#16)

theorem drawRun_isRun : IsRun stallOnce drawRun := by
  refine ⟨⟨State.reset, [drawProgram], rfl⟩, fun n => ?_⟩
  match n with
  | 0 => rfl
  | 1 => rfl
  | n + 2 =>
    have h : fetch ((drawRun (n + 2)).facing (stallOnce (n + 2))).poll = some 0x1202#16 := fetch_drawRun n
    show mapNext _ (cycle ((drawRun (n + 2)).facing (stallOnce (n + 2))).poll) = _
    rw [cycle_of_fetch (i := .jp 0x202#12) h (by decide)]
    rfl

theorem witness_FairRunStalledDrawGoesOn :
    FairRun stallOnce drawRun ∧ ((drawRun 0).facing (stallOnce 0)).stalls = true :=
  ⟨⟨drawRun_isRun, fun n => ⟨n, le_rfl, rfl⟩, fun n => ⟨n + 1, by omega, by
    simp [State.stalls, State.throttled, stallOnce]⟩⟩, by decide⟩

end Sys2Proof.Tests
end

/-!
PROOFS of the family of 10_state.md. How an instruction that continues ends, said once (`Ending`), with the frame
of what it writes (`ChangesOnly`); from these the frame, the moves of `pc` and the invariant. And one
noninterference lemma (`exec_mapUnread`) for the elements that few instructions read or none.
-/

namespace Sys2Proof.Machine

/-! ### Frames: what a change of the state leaves alone -/

/-- From `s` to `t` nothing changes but `pc` and the elements in `es`. -/
structure ChangesOnly (es : List Elem) (s t : State) : Prop where
  mem : Elem.memory ∉ es → t.mem = s.mem
  v : ∀ r : Reg, Elem.reg r ∉ es → t.v[r] = s.v[r]
  i : Elem.index ∉ es → t.i = s.i
  stack : Elem.stack ∉ es → t.stack = s.stack
  sp : Elem.sp ∉ es → t.sp = s.sp
  delayTimer : Elem.delayTimer ∉ es → t.delayTimer = s.delayTimer
  soundTimer : Elem.soundTimer ∉ es → t.soundTimer = s.soundTimer
  gfx : Elem.gfx ∉ es → t.gfx = s.gfx
  keys : t.keys = s.keys
  cfg : t.cfg = s.cfg
  env : t.env = s.env
  drawIndex : t.drawIndex = s.drawIndex
  frameOut : t.frameOut = s.frameOut

namespace ChangesOnly

variable {es : List Elem} {s t u : State}

theorem refl (es : List Elem) (s : State) : ChangesOnly es s s := by constructor <;> intros <;> rfl

theorem trans (h : ChangesOnly es s t) (h' : ChangesOnly es t u) : ChangesOnly es s u where
  mem hm := (h'.mem hm).trans (h.mem hm)
  v r hr := (h'.v r hr).trans (h.v r hr)
  i hi := (h'.i hi).trans (h.i hi)
  stack hs := (h'.stack hs).trans (h.stack hs)
  sp hs := (h'.sp hs).trans (h.sp hs)
  delayTimer hd := (h'.delayTimer hd).trans (h.delayTimer hd)
  soundTimer hs := (h'.soundTimer hs).trans (h.soundTimer hs)
  gfx hg := (h'.gfx hg).trans (h.gfx hg)
  keys := h'.keys.trans h.keys
  cfg := h'.cfg.trans h.cfg
  env := h'.env.trans h.env
  drawIndex := h'.drawIndex.trans h.drawIndex
  frameOut := h'.frameOut.trans h.frameOut

/-- A byte of memory reads as before where memory is not in the frame. -/
theorem readByte (h : ChangesOnly es s t) (hm : Elem.memory ∉ es) (a : Nat) :
    t.readByte a = s.readByte a := by
  rw [State.readByte, State.readByte, h.mem hm, h.cfg]

/-- Setting `pc` is in every frame. -/
theorem setPc (w : Word) : ChangesOnly es s (s.setPc w) := { refl es s with }

theorem setV {x : Reg} {b : Byte} (hx : Elem.reg x ∈ es) : ChangesOnly es s (s.setV x b) :=
  { refl es s with
    v := fun r hr => by rw [State.setV_v, regFile_set_get, if_neg (by rintro rfl; exact hr hx)] }

theorem setResultFlag {x : Reg} {a b : Byte} (hx : Elem.reg x ∈ es) (hf : Elem.reg vf ∈ es) :
    ChangesOnly es s (s.setResultFlag x a b) := (setV hx).trans (setV hf)

theorem setI {w : Word} (hi : Elem.index ∈ es) : ChangesOnly es s (s.setI w) :=
  { refl es s with i := fun h => absurd hi h }

theorem writeBytes {a : Nat} {bs : List Byte} (hm : Elem.memory ∈ es) :
    ChangesOnly es s (s.writeBytes a bs) :=
  { refl es s with mem := fun h => absurd hm h }

theorem setGfx {g : Framebuffer} (hg : Elem.gfx ∈ es) : ChangesOnly es s { s with gfx := g } :=
  { refl es s with gfx := fun h => absurd hg h }

theorem setDelayTimer {b : Byte} (hd : Elem.delayTimer ∈ es) :
    ChangesOnly es s { s with delayTimer := b } :=
  { refl es s with delayTimer := fun h => absurd hd h }

theorem setSoundTimer {b : Byte} (hs : Elem.soundTimer ∈ es) :
    ChangesOnly es s { s with soundTimer := b } :=
  { refl es s with soundTimer := fun h => absurd hs h }

theorem push {w : Word} (hk : Elem.stack ∈ es) (hs : Elem.sp ∈ es) (h : s.push? w = some t) :
    ChangesOnly es s t := by
  obtain ⟨-, rfl⟩ := s.push?_eq_some h
  exact { refl es s with stack := fun h => absurd hk h, sp := fun h => absurd hs h }

theorem pop (hs : Elem.sp ∈ es) (h : s.pop? = some t) : ChangesOnly es s t := by
  obtain ⟨-, -, rfl⟩ := s.pop?_eq_some h
  exact { refl es s with sp := fun h => absurd hs h }

/-- `Fx65` changes `v[0]` to `v[x]` alone among the registers (R175). -/
theorem loadRegs {x : Reg} (hx : ∀ r ≤ x, Elem.reg r ∈ es) :
    ChangesOnly es s { s with v := loadedRegs s x } :=
  { refl es s with
    v := fun r hr => (loadedRegs_get s x r).trans (if_neg fun hle => hr (hx r hle)) }

end ChangesOnly

/-! ### How an instruction ends -/

theorem memory_mem_writes {i : Instr} :
    Elem.memory ∈ writes i ↔ (∃ x, i = .ldBVx x) ∨ ∃ x, i = .storeRegs x := by
  cases i <;> simp [writes, regsUpTo]

theorem stack_mem_writes {i : Instr} : Elem.stack ∈ writes i ↔ ∃ nnn, i = .call nnn := by
  cases i <;> simp [writes, regsUpTo]

theorem reg_mem_writes_loadRegs {x r : Reg} (h : r ≤ x) : Elem.reg r ∈ writes (.loadRegs x) := by
  simpa [writes, regsUpTo] using h

/-- The ways an instruction that continues ends (R102, R106, R128): after writes of its own elements by the normal
advance, by a skip, by a stall, or by a transfer. -/
inductive Ending (s : State) : Instr → State → Prop where
  | advance {i : Instr} {u : State} (hu : ChangesOnly (writes i) s u) (hpc : u.pc = s.pc) :
    Ending s i u.advance
  | skip {i : Instr} (c : Bool) : Ending s i (s.skipIf c)
  | stall {i : Instr} (hi : (∃ x, i = .ldVxK x) ∨ ∃ x y n, i = .drw x y n) : Ending s i s
  | jp (nnn : Addr12) : Ending s (.jp nnn) (s.setPc (addr nnn))
  | call {nnn : Addr12} {t : State} (h : s.push? (addr nnn) = some t) : Ending s (.call nnn) t
  | jpV0 (nnn : Addr12) : Ending s (.jpV0 nnn) (s.setPc (offsetTarget s nnn))
  | ret {t : State} (h : s.pop? = some t) : Ending s .ret t

section
variable {i : Instr} {s t : State}

theorem Ending.of_loadTo {x : Reg} {b : Byte} (hx : Elem.reg x ∈ writes i)
    (h : loadTo s x b = .next t) : Ending s i t := by
  cases h
  exact .advance (.setV hx) rfl

theorem Ending.of_resultTo {x : Reg} {a b : Byte} (hx : Elem.reg x ∈ writes i)
    (hf : Elem.reg vf ∈ writes i) (h : resultTo s x a b = .next t) : Ending s i t := by
  cases h
  exact .advance (.setResultFlag hx hf) rfl

theorem Ending.of_setI {w : Word} (hi : Elem.index ∈ writes i)
    (h : (.next (s.setI w).advance : Result) = .next t) : Ending s i t := by
  cases h
  exact .advance (.setI hi) rfl

theorem Ending.of_skipIf {c : Bool} (h : (.next (s.skipIf c) : Result) = .next t) :
    Ending s i t := by
  cases h
  exact .skip c

/-- A halt answers no next state. -/
theorem halt_ne_next {cause : Word → Word → Fault} : halt cause i s ≠ .next t := nofun

/-- A check that halts was passed where a next state is answered. -/
theorem ite_halt_eq_next {c : Prop} [Decidable c] {cause : Word → Word → Fault} {o : Result}
    (h : (if c then halt cause i s else o) = .next t) : ¬ c ∧ o = .next t := by
  by_cases hc : c
  · rw [if_pos hc] at h
    exact absurd h halt_ne_next
  · rw [if_neg hc] at h
    exact ⟨hc, h⟩

/-- A return that continues popped its address. -/
theorem exec_ret_eq_next (h : exec .ret s = .next t) : s.pop? = some t := by
  cases hp : s.pop? with
  | none => simp [exec, execRet, hp] at h
  | some u =>
    simp only [exec, execRet, hp] at h
    cases h
    rfl

/-- A call that continues pushed its return address. -/
theorem exec_call_eq_next {nnn : Addr12} (h : exec (.call nnn) s = .next t) :
    s.push? (addr nnn) = some t := by
  cases hp : s.push? (addr nnn) with
  | none => simp [exec, execCall, hp] at h
  | some u =>
    simp only [exec, execCall, hp] at h
    cases h
    rfl

/-- Every instruction that continues ends in one of the ways of `Ending`. -/
theorem exec_ending (h : exec i s = .next t) : Ending s i t := by
  cases i with
  | cls => cases h; exact .advance (.setGfx (by simp [writes])) rfl
  | ret => exact .ret (exec_ret_eq_next h)
  | jp nnn => cases h; exact .jp nnn
  | call nnn => exact .call (exec_call_eq_next h)
  | jpV0 nnn => cases h; exact .jpV0 nnn
  | seImm | sneImm | seReg | sneReg => exact .of_skipIf h
  | ldImm | addImm | ldReg | rnd | ldVxDT => exact .of_loadTo (by simp [writes]) h
  | orReg | andReg | xorReg | addReg | subReg | shrReg | subnReg | shlReg =>
    exact .of_resultTo (by simp [writes]) (by simp [writes, vf]) h
  | ldI | ldFVx => exact .of_setI (by simp [writes]) h
  | drw x y n =>
    by_cases hs : s.throttled = true
    · simp only [exec, execDrw, if_pos hs] at h
      cases h
      exact .stall (.inr ⟨x, y, n, rfl⟩)
    · simp only [exec, execDrw, if_neg hs] at h
      obtain ⟨-, h⟩ := ite_halt_eq_next h
      cases h
      exact .advance ((ChangesOnly.setGfx (by simp [writes])).trans (.setV (by simp [writes, vf]))) rfl
  | skp x =>
    cases hk : keyCode s x with
    | none => simp [exec, execSkp, hk] at h
    | some k => simp only [exec, execSkp, hk] at h; exact .of_skipIf h
  | sknp x =>
    cases hk : keyCode s x with
    | none => simp [exec, execSknp, hk] at h
    | some k => simp only [exec, execSknp, hk] at h; exact .of_skipIf h
  | ldVxK x =>
    cases hk : lowestKey s with
    | none =>
      simp only [exec, execLdVxK, hk] at h
      cases h
      exact .stall (.inl ⟨x, rfl⟩)
    | some k => simp only [exec, execLdVxK, hk] at h; exact .of_loadTo (by simp [writes]) h
  | ldDTVx x => cases h; exact .advance (.setDelayTimer (by simp [writes])) rfl
  | ldSTVx x => cases h; exact .advance (.setSoundTimer (by simp [writes])) rfl
  | addIVx x => exact .of_setI (by simp [writes]) (ite_halt_eq_next h).2
  | ldBVx x =>
    obtain ⟨-, h⟩ := ite_halt_eq_next h
    cases h
    exact .advance (.writeBytes (by simp [writes])) rfl
  | storeRegs x =>
    obtain ⟨-, h⟩ := ite_halt_eq_next h
    cases h
    exact .advance ((ChangesOnly.writeBytes (by simp [writes])).trans (.setI (by simp [writes]))) rfl
  | loadRegs x =>
    obtain ⟨-, h⟩ := ite_halt_eq_next h
    cases h
    exact .advance
      ((ChangesOnly.loadRegs fun r hr => reg_mem_writes_loadRegs hr).trans (.setI (by simp [writes]))) rfl

/-! ### The frame and the moves of `pc` -/

/-- However an instruction ends, it changes only what it may write, and `pc`. -/
theorem Ending.changesOnly (h : Ending s i t) : ChangesOnly (writes i) s t := by
  cases h with
  | advance hu _ => exact hu.trans (.setPc _)
  | skip c => exact .setPc _
  | stall _ => exact .refl _ _
  | jp nnn => exact .setPc _
  | call h => exact .push (by simp [writes]) (by simp [writes]) h
  | jpV0 nnn => exact .setPc _
  | ret h => exact .pop (by simp [writes]) h

theorem exec_changesOnly (h : exec i s = .next t) : ChangesOnly (writes i) s t :=
  (exec_ending h).changesOnly

end

/-- Settles O47: each way an instruction ends is in the frame of what it may write. -/
theorem execWritesOnlyItsElements : Obligations.ExecWritesOnlyItsElements := by
  intro i s t h
  have hf := exec_changesOnly h
  exact ⟨fun hm => ⟨hf.mem hm, hf.readByte hm⟩, hf.v, hf.i, hf.stack, hf.sp, hf.delayTimer,
    hf.soundTimer, hf.gfx, hf.keys, hf.cfg, hf.env, hf.drawIndex, hf.frameOut⟩

/-- Settles O48: by the ways an instruction ends. -/
theorem pcMovesByTheRules : Obligations.PcMovesByTheRules := by
  intro i s t h
  cases exec_ending h with
  | advance _ hpc => exact .inl (by rw [State.advance_pc, hpc])
  | skip c =>
    cases c with
    | false => exact .inl rfl
    | true => exact .inr (.inl rfl)
  | stall hi => exact .inr (.inr (.inl ⟨hi, rfl⟩))
  | jp nnn => exact .inr (.inr (.inr (.inl ⟨nnn, .inl rfl, addr_toNat nnn⟩)))
  | @call nnn _ hp =>
    obtain ⟨-, rfl⟩ := s.push?_eq_some hp
    exact .inr (.inr (.inr (.inl ⟨nnn, .inr rfl, addr_toNat nnn⟩)))
  | jpV0 nnn => exact .inr (.inr (.inr (.inr (.inl ⟨nnn, rfl, offsetTarget_toNat s nnn⟩))))
  | ret hp =>
    obtain ⟨lt, -, rfl⟩ := s.pop?_eq_some hp
    exact .inr (.inr (.inr (.inr (.inr ⟨rfl, ⟨s.sp.val - 1, lt⟩, rfl⟩))))

/-! ### The invariant -/

section
variable {i : Instr} {s t : State}

/-- Bytes written from `i` up, after the range check of R55 passed, keep memory's form. -/
theorem memWf_writeBytes_of_not_rangeFails {last : Nat} {bs : List Byte} (hw : s.memWf)
    (hr : ¬ s.rangeFails last = true) (hl : bs.length = last + 1) :
    (s.writeBytes s.i.toNat bs).memWf := by
  rw [State.rangeFails_iff] at hr
  exact s.memWf_writeBytes hw (by rw [hl, memSize]; omega)

/-- The two instructions that store check the whole range first; no other one writes memory. -/
theorem exec_keeps_memWf (hw : s.memWf) (h : exec i s = .next t) : t.memWf := by
  by_cases hm : Elem.memory ∈ writes i
  · obtain ⟨x, rfl⟩ | ⟨x, rfl⟩ := memory_mem_writes.1 hm
    · obtain ⟨hr, h⟩ := ite_halt_eq_next h
      cases h
      exact memWf_writeBytes_of_not_rangeFails hw hr rfl
    · obtain ⟨hr, h⟩ := ite_halt_eq_next h
      cases h
      exact memWf_writeBytes_of_not_rangeFails hw hr (regBlock_length s x)
  · have hf := exec_changesOnly h
    rw [State.memWf, hf.mem hm, hf.cfg]
    exact hw

/-- Only a call writes the stack, and what it stores is `pc + 2` (R122). -/
theorem exec_stack_get (h : exec i s = .next t) (k : Fin 16) :
    t.stack[k] = s.stack[k] ∨ t.stack[k] = s.pc + 2#16 := by
  by_cases hm : Elem.stack ∈ writes i
  · obtain ⟨nnn, rfl⟩ := stack_mem_writes.1 hm
    obtain ⟨lt, rfl⟩ := s.push?_eq_some (exec_call_eq_next h)
    simp only [Fin.getElem_fin, Vector.getElem_set]
    split
    · exact .inr rfl
    · exact .inl rfl
  · exact .inl (by rw [(exec_changesOnly h).stack hm])

/-- An instruction that was fetched, so `pc` at most 0xFFE, keeps the invariant. -/
theorem exec_keeps_inv (hs : s.Inv) (hpc : s.pc.toNat < 0xFFF) (h : exec i s = .next t) : t.Inv := by
  obtain ⟨hmem, -, hstack⟩ := hs
  have hnext : (s.pc + 2#16).toNat ≤ 0x1000 := by bv_omega
  refine ⟨exec_keeps_memWf hmem h, ?_, fun k => ?_⟩
  · rcases pcMovesByTheRules i s t h with
      hp | hp | ⟨-, rfl⟩ | ⟨nnn, -, hp⟩ | ⟨nnn, -, hp⟩ | ⟨-, k, hp⟩
    · rw [hp]; omega
    · rw [hp]; bv_omega
    · omega
    · have := nnn.isLt; omega
    · have := nnn.isLt; have := s.v[(0 : Reg)].isLt; omega
    · rw [hp]; exact (hstack k).trans (by decide)
  · rcases exec_stack_get h k with hk | hk
    · rw [hk]; exact hstack k
    · rw [hk]; exact hnext

theorem cycle_keeps_inv (hs : s.Inv) (h : cycle s = .next t) : t.Inv := by
  obtain ⟨op, i, hf, -, he⟩ := cycle_eq_next h
  refine exec_keeps_inv hs (Nat.lt_of_not_le fun hle => ?_) he
  rw [fetch_eq_none.2 hle] at hf
  cases hf

end

/-- Settles O49: the poll and the end of an iteration touch nothing the invariant speaks of, and the fetch bounds
the `pc` from which the cycle's instruction moves on. -/
theorem stepKeepsTheInvariant : Obligations.StepKeepsTheInvariant := by
  intro s t hs h
  obtain ⟨-, u, hc, rfl⟩ := step_eq_next h
  have hpoll : s.poll.Inv := hs
  have hu : u.Inv := cycle_keeps_inv hpoll hc
  exact hu

/-! ### Noninterference -/

/-- The state with the elements changed that few instructions read, or none: the keys, the sound timer and the
coming inputs. -/
def State.mapUnread (fk : Keys → Keys) (ft : Byte → Byte) (fe : List EnvInput → List EnvInput) (fd : Nat → Nat)
    (s : State) : State :=
  { s with
    keys := fk s.keys
    soundTimer := ft s.soundTimer
    env := fe s.env
    drawIndex := fd s.drawIndex }

section
variable {fk : Keys → Keys} {ft : Byte → Byte} {fe : List EnvInput → List EnvInput} {fd : Nat → Nat}
variable {i : Instr} {s : State}

theorem State.pop?_mapUnread :
    (s.mapUnread fk ft fe fd).pop? = s.pop?.map (State.mapUnread fk ft fe fd) := by
  by_cases h : 0 < s.sp.val <;> simp [State.pop?, State.mapUnread, h]

theorem State.push?_mapUnread (w : Word) :
    (s.mapUnread fk ft fe fd).push? w = (s.push? w).map (State.mapUnread fk ft fe fd) := by
  by_cases h : s.sp.val < 16 <;> simp [State.push?, State.nextPc, State.mapUnread, h]

theorem keyCode_mapUnread (x : Reg) : keyCode (s.mapUnread fk ft fe fd) x = keyCode s x := rfl

theorem keyDown_mapUnread (h : fk s.keys = s.keys) (k : Reg) :
    keyDown (s.mapUnread fk ft fe fd) k = keyDown s k :=
  congrArg (fun keys : Keys => keys[k]) h

theorem lowestKey_mapUnread (h : fk s.keys = s.keys) :
    lowestKey (s.mapUnread fk ft fe fd) = lowestKey s := by
  simp only [lowestKey, keyDown_mapUnread h]

/-- An instruction does the same from a state changed in `mapUnread`'s elements, where it does not read them or
what it reads of them is as before, and does not overwrite the sound timer. -/
theorem exec_mapUnread
    (hkeys : (∀ x, i ≠ .skp x ∧ i ≠ .sknp x ∧ i ≠ .ldVxK x) ∨ fk s.keys = s.keys)
    (hsound : (∀ x, i ≠ .ldSTVx x) ∨ ft = id)
    (hrnd : (∀ x nn, i ≠ .rnd x nn) ∨ (s.mapUnread fk ft fe fd).input.rnd = s.input.rnd)
    (hstall : (∀ x y n, i ≠ .drw x y n) ∨ (s.mapUnread fk ft fe fd).throttled = s.throttled) :
    exec i (s.mapUnread fk ft fe fd) = mapNext (State.mapUnread fk ft fe fd) (exec i s) := by
  cases i with
  | cls | jp | jpV0 | seImm | sneImm | seReg | sneReg | ldImm | addImm | ldReg => rfl
  | orReg | andReg | xorReg | addReg | subReg | shrReg | subnReg | shlReg => rfl
  | ldI | ldFVx | ldVxDT | ldDTVx => rfl
  | ldSTVx x =>
    obtain rfl : ft = id := hsound.resolve_left fun h => h x rfl
    rfl
  | rnd x nn =>
    have hr := hrnd.resolve_left fun h => h x nn rfl
    simp only [exec, execRnd, hr]
    rfl
  | ret =>
    simp only [exec, execRet, State.pop?_mapUnread]
    cases s.pop? <;> rfl
  | call nnn =>
    simp only [exec, execCall, State.push?_mapUnread]
    cases s.push? (addr nnn) <;> rfl
  | drw x y n =>
    have hr := hstall.resolve_left fun h => h x y n rfl
    simp only [exec, execDrw, apply_ite (mapNext _), hr]
    rfl
  | skp x =>
    have hk := hkeys.resolve_left fun h => (h x).1 rfl
    simp only [exec, execSkp, keyCode_mapUnread, keyDown_mapUnread hk]
    cases keyCode s x <;> rfl
  | sknp x =>
    have hk := hkeys.resolve_left fun h => (h x).2.1 rfl
    simp only [exec, execSknp, keyCode_mapUnread, keyDown_mapUnread hk]
    cases keyCode s x <;> rfl
  | ldVxK x =>
    have hk := hkeys.resolve_left fun h => (h x).2.2 rfl
    simp only [exec, execLdVxK, lowestKey_mapUnread hk]
    cases lowestKey s <;> rfl
  | addIVx | ldBVx | storeRegs | loadRegs =>
    simp only [exec, execAddIVx, execLdBVx, execStoreRegs, execLoadRegs, apply_ite (mapNext _)]
    rfl

end

/-- Settles O53: a change of the keys alone, which only the three readers see. -/
theorem keysReachOnlyTheirReaders : Obligations.KeysReachOnlyTheirReaders := by
  intro i s keys hi
  exact exec_mapUnread (fk := fun _ => keys) (ft := id) (fe := id) (fd := id)
    (.inl hi) (.inr rfl) (.inr rfl) (.inr rfl)

/-- Settles O54: a change of the sound timer alone, which `Fx18` overwrites and no instruction reads. -/
theorem soundTimerIsNeverRead : Obligations.SoundTimerIsNeverRead := by
  intro i s b
  refine ⟨fun hi => ?_, fun x => rfl⟩
  exact exec_mapUnread (fk := id) (ft := fun _ => b) (fe := id) (fd := id)
    (.inr rfl) (.inl hi) (.inr rfl) (.inr rfl)

end Sys2Proof.Machine

/-!
PROOFS of the family of 20_memory.md. What a fetch in range reads (R51), and what `Fx55` leaves in memory (R174):
together, that the next fetch sees a store (R61).
-/

namespace Sys2Proof.Machine

/-- The byte at the lower address is the high one (R51). -/
theorem wordOfBytes_toNat (hi lo : Byte) : (wordOfBytes hi lo).toNat = 256 * hi.toNat + lo.toNat := by
  rw [wordOfBytes, append_toNat]
  omega

section
variable {x : Reg} {s t : State}

/-- A fetch in range answers the word of the two bytes at `pc` (R51, R100). -/
theorem fetch_eq_some_of_le (h : s.pc.toNat + 1 ≤ 0xFFF) :
    fetch s = some (wordOfBytes (s.readByte s.pc.toNat) (s.readByte (s.pc.toNat + 1))) :=
  if_neg (Nat.not_lt.2 h)

/-- An `Fx55` that continues passed its range check and wrote its block, then `i`, then `pc` (R55, R174). -/
theorem exec_storeRegs_eq_next (h : exec (.storeRegs x) s = .next t) :
    s.i.toNat + x.val ≤ 0xFFF ∧
      t = ((s.writeBytes s.i.toNat (regBlock s x)).setI (indexAfterBlock s x)).advance := by
  obtain ⟨hr, h⟩ := ite_halt_eq_next h
  rw [State.rangeFails_iff] at hr
  cases h
  exact ⟨Nat.not_lt.1 hr, rfl⟩

/-- After `Fx55` the `k`-th byte of the block is `v[k]` (R174). -/
theorem readByte_of_exec_storeRegs (hw : s.memWf) (h : exec (.storeRegs x) s = .next t) {k : Reg}
    (hk : k ≤ x) : t.readByte (s.i.toNat + k.val) = s.v[k] := by
  obtain ⟨hr, rfl⟩ := exec_storeRegs_eq_next h
  have hlen : k.val < (regBlock s x).length := by rw [regBlock_length]; exact Nat.lt_succ_of_le hk
  have hfit : s.i.toNat + (regBlock s x).length ≤ memSize := by rw [regBlock_length, memSize]; omega
  exact (s.readByte_writeBytes_same hw hfit hlen).trans (regBlock_get s x hlen)

end

/-- Settles O6: the range check is the statement's premise, so the fetch answers the word of the two bytes. -/
theorem fetchReadsTheBigEndianWord : Obligations.FetchReadsTheBigEndianWord := by
  intro s h
  exact ⟨_, fetch_eq_some_of_le h, wordOfBytes_toNat _ _⟩

/-- Settles O36: the store's range check, with `x` at least 1, puts the fetch in range, and the two bytes it reads
are the first two of the block. -/
theorem storedBytesAreFetched : Obligations.StoredBytesAreFetched := by
  intro x s t hw hx h
  obtain ⟨hr, -⟩ := exec_storeRegs_eq_next h
  have hpc : s.i.toNat + 1 ≤ 0xFFF := by omega
  have h0 : t.readByte s.i.toNat = s.v[0] := readByte_of_exec_storeRegs hw h (Fin.zero_le x)
  have h1 : t.readByte (s.i.toNat + 1) = s.v[1] := readByte_of_exec_storeRegs (k := 1) hw h hx
  calc fetch { t with pc := s.i }
      = some (wordOfBytes (t.readByte s.i.toNat) (t.readByte (s.i.toNat + 1))) := fetch_eq_some_of_le hpc
    _ = some (s.v[0] ++ s.v[1]) := by rw [h0, h1, wordOfBytes]

end Sys2Proof.Machine

/-!
PROOFS of the family of 30_encoding.md. The words of R74 are put together from the fields of R71, and whether a word
is refused depends on the bits of R73 alone.
-/

namespace Sys2Proof

/-! ### Decoding what was encoded -/

/-- The decoder reads back every instruction's fields from its word (R74). -/
theorem decode_encode (i : Instr) : decode (encode i) = some i := by
  cases i with
  | cls | ret => rfl
  | jp | call | seImm | sneImm | seReg | ldImm | addImm | sneReg | ldI | jpV0 | rnd | drw =>
    simp [encode, decode]
  | ldReg | orReg | andReg | xorReg | addReg | subReg | shrReg | subnReg | shlReg =>
    simp [encode, decode, decode8]
  | skp | sknp => simp [encode, decode, decodeE]
  | ldVxDT | ldVxK | ldDTVx | ldSTVx | addIVx | ldFVx | ldBVx | storeRegs | loadRegs =>
    simp [encode, decode, decodeF]

/-- The word of an instruction passes R75's check of its major opcode. -/
theorem wellFormedWord_encode (i : Instr) : wellFormedWord (encode i) = true := by
  cases i with
  | cls | ret => rfl
  | jp | call | seImm | sneImm | ldImm | addImm | ldI | jpV0 | rnd | drw =>
    simp [encode, wellFormedWord]
  | seReg | sneReg => simp [encode, wellFormedWord, wellFormedXY0]
  | ldReg | orReg | andReg | xorReg | addReg | subReg | shrReg | subnReg | shlReg =>
    simp [encode, wellFormedWord, wellFormed8]
  | skp | sknp => simp [encode, wellFormedWord, wellFormedE]
  | ldVxDT | ldVxK | ldDTVx | ldSTVx | addIVx | ldFVx | ldBVx | storeRegs | loadRegs =>
    simp [encode, wellFormedWord, wellFormedF]

/-- Settles O1: by the format of each instruction. -/
theorem decodeOfEncodeIsTheInstruction : Obligations.DecodeOfEncodeIsTheInstruction :=
  fun i => ⟨wellFormedWord_encode i, decode_encode i⟩

/-! ### Encoding what was decoded -/

section
variable {h f : BitVec 4} {nn : Byte} {w : Word} {i : Instr}

theorem opX_val : (opX w).val = w.toNat / 0x100 % 0x10 := by
  simp [opX, Nat.shiftRight_eq_div_pow]

theorem opY_val : (opY w).val = w.toNat / 0x10 % 0x10 := by
  simp [opY, Nat.shiftRight_eq_div_pow]

/-- A word of each format is put together again from its fields (R71). -/
theorem encodeNNN_of_fields (hh : opH w = h) : encodeNNN h (opNNN w) = w := by
  subst hh
  apply BitVec.eq_of_toNat_eq
  rw [encodeNNN_toNat, opH, opNNN, BitVec.extractLsb'_toNat, BitVec.extractLsb'_toNat]
  omega

theorem encodeXNN_of_fields (hh : opH w = h) (hn : opNN w = nn) : encodeXNN h (opX w) nn = w := by
  subst hh hn
  apply BitVec.eq_of_toNat_eq
  rw [encodeXNN_toNat, opX_val, opH, opNN, BitVec.extractLsb'_toNat, BitVec.extractLsb'_toNat]
  omega

theorem encodeXY_of_fields (hh : opH w = h) (hf : opN w = f) : encodeXY h (opX w) (opY w) f = w := by
  subst hh hf
  apply BitVec.eq_of_toNat_eq
  rw [encodeXY_toNat, opX_val, opY_val, opH, opN, BitVec.extractLsb'_toNat, BitVec.extractLsb'_toNat]
  omega

/-- A decoder of one major opcode answers an instruction whose word has the fields it read. -/
theorem encode_of_decode0 (h : decode0 w = some i) : encode i = w := by
  unfold decode0 at h
  split at h
  · next hw => cases h; exact hw.symm
  split at h
  · next hw => cases h; exact hw.symm
  · cases h

theorem encode_of_decode8 (hh : opH w = 0x8#4) (h : decode8 w = some i) : encode i = w := by
  unfold decode8 at h
  split at h <;> cases h
  all_goals
    next hf => exact encodeXY_of_fields hh (BitVec.eq_of_toNat_eq hf)

theorem encode_of_decodeE (hh : opH w = 0xE#4) (h : decodeE w = some i) : encode i = w := by
  unfold decodeE at h
  split at h <;> cases h
  all_goals
    next hn => exact encodeXNN_of_fields hh (BitVec.eq_of_toNat_eq hn)

theorem encode_of_decodeF (hh : opH w = 0xF#4) (h : decodeF w = some i) : encode i = w := by
  unfold decodeF at h
  split at h <;> cases h
  all_goals
    next hn => exact encodeXNN_of_fields hh (BitVec.eq_of_toNat_eq hn)

/-- The word of a decoded instruction is the word decoded: major opcode by major opcode, the fields the decoder read
are all of it (R76). -/
theorem encode_of_decode (h : decode w = some i) : encode i = w := by
  have major {n : Nibble} (hn : (opH w).toNat = n.toNat) : opH w = n := BitVec.eq_of_toNat_eq hn
  unfold decode at h
  split at h
  case h_1 => exact encode_of_decode0 h
  case h_2 hm | h_3 hm | h_11 hm | h_12 hm => cases h; exact encodeNNN_of_fields (major hm)
  case h_4 hm | h_5 hm | h_7 hm | h_8 hm | h_13 hm => cases h; exact encodeXNN_of_fields (major hm) rfl
  case h_6 hm | h_10 hm =>
    obtain ⟨hf, h⟩ := Option.ite_none_right_eq_some.1 h
    cases h
    exact encodeXY_of_fields (major hm) hf
  case h_9 hm => exact encode_of_decode8 (major hm) h
  case h_14 hm => cases h; exact encodeXY_of_fields (major hm) rfl
  case h_15 hm => exact encode_of_decodeE (major hm) h
  case h_16 =>
    have hF : opH w = 0xF#4 := by simp only [imp_false] at *; bv_omega
    exact encode_of_decodeF hF h

end

/-- Settles O2: the fields the decoder read are the whole word. -/
theorem encodeOfDecodeIsTheWord : Obligations.EncodeOfDecodeIsTheWord :=
  fun _ _ h => encode_of_decode h

/-! ### The opcode table -/

/-- The bits that R73 compares in a word of major opcode `h`; `opcodeTable_rows` ties them to the masks of R74. -/
def comparedMask (h : Nibble) : Word :=
  match h.toNat with
  | 0x0 => 0xFFFF#16
  | 0x5 | 0x8 | 0x9 => 0xF00F#16
  | 0xE | 0xF => 0xF0FF#16
  | _ => 0xF000#16

/-- The compared bits of a word (R73). -/
def comparedBits (w : Word) : Word := w &&& comparedMask (opH w)

theorem OpcodeRow.hits_iff {r : OpcodeRow} {w : Word} : r.hits w = true ↔ w &&& r.mask = r.pattern := beq_iff_eq

/-- The table compares what R73 says, in every row, and every row's pattern is the word of an instruction. -/
theorem opcodeTable_rows : ∀ r ∈ opcodeTable,
    r.mask = comparedMask (opH r.pattern) ∧ decode r.pattern ≠ none := by decide

theorem opH_comparedMask : ∀ h : Nibble, opH (comparedMask h) = 0xF#4 := by decide

theorem opH_and_of_ones {w m : Word} (hm : opH m = 0xF#4) : opH (w &&& m) = opH w := by
  rw [opH, BitVec.extractLsb'_and]
  exact (congrArg (opH w &&& ·) hm).trans (nibble_and_ones _)

theorem opN_and_of_ones {w m : Word} (hm : opN m = 0xF#4) : opN (w &&& m) = opN w := by
  rw [opN, BitVec.extractLsb'_and]
  exact (congrArg (opN w &&& ·) hm).trans (nibble_and_ones _)

theorem opNN_and_of_ones {w m : Word} (hm : opNN m = 0xFF#8) : opNN (w &&& m) = opNN w := by
  rw [opNN, BitVec.extractLsb'_and]
  exact (congrArg (opNN w &&& ·) hm).trans (byte_and_ones _)

section
variable {w u : Word} {r : OpcodeRow}

/-- A row that a word hits has the word's major opcode, so it is the row of the word's own compared bits. -/
theorem eq_of_hits (hr : r ∈ opcodeTable) (h : r.hits w = true) :
    r = ⟨comparedMask (opH w), comparedBits w⟩ := by
  obtain ⟨hmask, -⟩ := opcodeTable_rows r hr
  rw [OpcodeRow.hits_iff] at h
  have hH : opH r.pattern = opH w := by
    rw [← h, hmask]
    exact opH_and_of_ones (opH_comparedMask _)
  rw [hH] at hmask
  rw [comparedBits, ← hmask, h]

/-- Whether a secondary decoder refuses a word depends on its secondary field alone. -/
theorem decode8_eq_none_congr (h : opN w = opN u) : decode8 w = none ↔ decode8 u = none := by
  unfold decode8
  rw [h]
  split <;> simp

theorem decodeE_eq_none_congr (h : opNN w = opNN u) : decodeE w = none ↔ decodeE u = none := by
  unfold decodeE
  rw [h]
  split <;> simp

theorem decodeF_eq_none_congr (h : opNN w = opNN u) : decodeF w = none ↔ decodeF u = none := by
  unfold decodeF
  rw [h]
  split <;> simp

/-- Whether a word is refused depends on the compared bits alone: the secondary decoders look at nothing else. -/
theorem decode_comparedBits_eq_none : decode (comparedBits w) = none ↔ decode w = none := by
  have hH : opH (comparedBits w) = opH w := opH_and_of_ones (opH_comparedMask _)
  have mask (n : Nibble) (hn : (opH w).toNat = n.toNat) : comparedMask (opH w) = comparedMask n :=
    congrArg comparedMask (BitVec.eq_of_toNat_eq hn)
  unfold decode
  rw [hH]
  split
  case h_1 hm =>
    have hw : comparedBits w = w := by
      rw [comparedBits, mask 0x0#4 hm]
      exact BitVec.and_allOnes
    rw [hw]
  case h_6 hm =>
    have hN : opN (comparedBits w) = opN w := opN_and_of_ones (congrArg opN (mask 0x5#4 hm))
    simp [hN]
  case h_9 hm => exact decode8_eq_none_congr (opN_and_of_ones (congrArg opN (mask 0x8#4 hm)))
  case h_10 hm =>
    have hN : opN (comparedBits w) = opN w := opN_and_of_ones (congrArg opN (mask 0x9#4 hm))
    simp [hN]
  case h_15 hm => exact decodeE_eq_none_congr (opNN_and_of_ones (congrArg opNN (mask 0xE#4 hm)))
  case h_16 =>
    have hF : opH w = 0xF#4 := by simp only [imp_false] at *; bv_omega
    exact decodeF_eq_none_congr (opNN_and_of_ones (congrArg (fun n => opNN (comparedMask n)) hF))
  all_goals exact iff_of_false nofun nofun

end

open Laws.MatchesRow in
/-- The word of every instruction hits the instruction's own row of the table. -/
theorem encode_matchesRow : ∀ i : Instr, Statement i
  | .cls => cls | .ret => ret | .jp _ => jp _ | .call _ => call _ | .seImm _ _ => seImm _ _
  | .sneImm _ _ => sneImm _ _ | .seReg _ _ => seReg _ _ | .ldImm _ _ => ldImm _ _
  | .addImm _ _ => addImm _ _ | .ldReg _ _ => ldReg _ _ | .orReg _ _ => orReg _ _
  | .andReg _ _ => andReg _ _ | .xorReg _ _ => xorReg _ _ | .addReg _ _ => addReg _ _
  | .subReg _ _ => subReg _ _ | .shrReg _ _ => shrReg _ _ | .subnReg _ _ => subnReg _ _
  | .shlReg _ _ => shlReg _ _ | .sneReg _ _ => sneReg _ _ | .ldI _ => ldI _ | .jpV0 _ => jpV0 _
  | .rnd _ _ => rnd _ _ | .drw _ _ _ => drw _ _ _ | .skp _ => skp _ | .sknp _ => sknp _
  | .ldVxDT _ => ldVxDT _ | .ldVxK _ => ldVxK _ | .ldDTVx _ => ldDTVx _ | .ldSTVx _ => ldSTVx _
  | .addIVx _ => addIVx _ | .ldFVx _ => ldFVx _ | .ldBVx _ => ldBVx _ | .storeRegs _ => storeRegs _
  | .loadRegs _ => loadRegs _

theorem opcodeTable_nodup : opcodeTable.Nodup := by decide

/-- Settles O3: a decoded word is its instruction's encoding; a word has one candidate row, of its compared bits,
whose pattern is refused where the word is. -/
theorem decodeFollowsTheOpcodeTable : Obligations.DecodeFollowsTheOpcodeTable := by
  intro w
  have own (i : Instr) (h : decode w = some i) :
      ∃ r, opcodeTable[i.rowIndex]? = some r ∧ r.hits w = true := by
    obtain ⟨r, hr, hw⟩ := encode_matchesRow i
    rw [encode_of_decode h] at hw
    exact ⟨r, hr, OpcodeRow.hits_iff.2 hw⟩
  refine ⟨own, ⟨fun hnone r hr => ?_, fun hmiss => ?_⟩, ?_⟩
  · rw [← Bool.not_eq_true]
    intro hit
    obtain ⟨-, hdec⟩ := opcodeTable_rows r hr
    rw [eq_of_hits hr hit] at hdec
    exact hdec (decode_comparedBits_eq_none.2 hnone)
  · refine Option.eq_none_iff_forall_ne_some.2 fun i hi => ?_
    obtain ⟨r, hr, hit⟩ := own i hi
    simp [hmiss r (List.mem_of_getElem? hr)] at hit
  · refine opcodeTable_nodup.imp_of_mem fun ha hb hne => ?_
    rintro ⟨hita, hitb⟩
    exact hne ((eq_of_hits ha hita).trans (eq_of_hits hb hitb).symm)

end Sys2Proof

/-!
PROOFS of the family of 40_cycle.md. What a cycle does with a fetched word that is no instruction (R101); for a
decoded word it is `cycle_of_fetch`.
-/

namespace Sys2Proof.Machine

/-- A cycle halts on a fetched word that decodes to nothing, and reports the word and the `pc` (R101). -/
theorem cycle_of_unknown {s : State} {op : Word} (hf : fetch s = some op) (hd : decode op = none) :
    cycle s = .fault (.unknownOpcode op s.pc) := by
  simp only [cycle, hf, hd]

/-- Settles O8: the fetch is in range, so the decoder's refusal is what the cycle answers. -/
theorem unknownOpcodeHalts : Obligations.UnknownOpcodeHalts :=
  fun _ _ => cycle_of_unknown

end Sys2Proof.Machine

/-!
PROOFS of the family of 41_control.md. A skip takes the side that its test decides (R128), said once for the four
skips that compare; and the low nibble of the two that compare registers (R125, R126).
-/

namespace Sys2Proof

/-- Major opcodes 5 and 9 have a word with low nibble 0 only (R75). -/
theorem decode_eq_none_of_opN_ne_zero {w : Word} (hh : opH w = 0x5#4 ∨ opH w = 0x9#4) (hn : opN w ≠ 0x0#4) :
    decode w = none := by
  rcases hh with hh | hh
  all_goals
    rw [decode, hh]
    exact if_neg hn

end Sys2Proof

namespace Sys2Proof.Machine

section
variable (s : State)

/-- What `skipIf` leaves when its Boolean test decides the spec's condition `p`. -/
theorem State.skipIf_of_iff {c : Bool} {p : Prop} [Decidable p] (h : c = true ↔ p) :
    s.skipIf c = { s with pc := if p then s.pc + 2#16 + 2#16 else s.pc + 2#16 } := by
  simp only [State.skipIf_eq, h]

/-- A skip on two bytes' being equal: `3xnn` and `5xy0`. -/
theorem State.skipIf_beq (a b : Byte) :
    s.skipIf (a == b) = { s with pc := if a = b then s.pc + 2#16 + 2#16 else s.pc + 2#16 } :=
  s.skipIf_of_iff beq_iff_eq

/-- A skip on two bytes' being unequal: `4xnn` and `9xy0`. -/
theorem State.skipIf_bne (a b : Byte) :
    s.skipIf (a != b) = { s with pc := if a ≠ b then s.pc + 2#16 + 2#16 else s.pc + 2#16 } :=
  s.skipIf_of_iff bne_iff_ne

end

/-- Settles O14: the target is the operand zero-extended, and the word is of format NNN. -/
theorem jpSetsPc : Obligations.JpSetsPc :=
  fun nnn _ => ⟨encodeNNN_toNat 0x1#4 nnn, rfl⟩

/-- Settles O18: the two skips of format XNN, on `v[x]` and the immediate. -/
theorem skipsOnAnImmediate : Obligations.SkipsOnAnImmediate := by
  intro x nn s
  refine ⟨encodeXNN_toNat 0x3#4 x nn, ?_, encodeXNN_toNat 0x4#4 x nn, ?_⟩
  · exact congrArg Host.Outcome.next (s.skipIf_beq s.v[x] nn)
  · exact congrArg Host.Outcome.next (s.skipIf_bne s.v[x] nn)

/-- Settles O19: the two skips of format XY0, on `v[x]` and `v[y]`; the decoder refuses another low nibble. -/
theorem skipsOnRegisters : Obligations.SkipsOnRegisters := by
  refine ⟨fun x y s => ?_, fun _ => decode_eq_none_of_opN_ne_zero⟩
  refine ⟨encodeXY_toNat 0x5#4 0x0#4 x y, ?_, encodeXY_toNat 0x9#4 0x0#4 x y, ?_⟩
  · exact congrArg Host.Outcome.next (s.skipIf_beq s.v[x] s.v[y])
  · exact congrArg Host.Outcome.next (s.skipIf_bne s.v[x] s.v[y])

end Sys2Proof.Machine

/-!
PROOFS of the family of 42_alu.md. The word of an ALU instruction of major opcode 8 (R71), and the endings of R141
said in numbers for the statements in exact arithmetic.
-/

namespace Sys2Proof

/-- The word of an `8xyf` instruction, its two fixed fields put together. -/
theorem encodeXY_alu_toNat (x y : Reg) (f : Nibble) :
    (encodeXY 0x8#4 x y f).toNat = 0x8000 + f.toNat + 0x100 * x.val + 0x10 * y.val := by
  rw [encodeXY_toNat, BitVec.toNat_ofNat]
  omega

end Sys2Proof

namespace Sys2Proof.Machine

section
variable (s : State) (x : Reg) (a b : Byte)

theorem carryOf_toNat : (carryOf a b).toNat = if 255 < a.toNat + b.toNat then 1 else 0 := by
  rw [carryOf_eq]
  exact apply_ite BitVec.toNat _ _ _

theorem notBorrow_toNat : (notBorrow a b).toNat = if a.toNat ≥ b.toNat then 1 else 0 := by
  rw [notBorrow_eq]
  exact apply_ite BitVec.toNat _ _ _

/-- The difference modulo 256 (R149), with no subtraction that could truncate. -/
theorem byte_sub_toNat : (a - b).toNat = (a.toNat + 256 - b.toNat) % 256 := by
  rw [BitVec.toNat_sub]
  have := b.isLt
  omega

variable {a b} in
/-- `resultTo_eq` in numbers, for a result and a flag of known values. -/
theorem resultTo_toNat {m n : Nat} (ha : a.toNat = m) (hb : b.toNat = n) :
    ∃ t, resultTo s x a b = .next t ∧
      (∀ r : Reg, t.v[r].toNat = if r = 15 then n else if r = x then m else s.v[r].toNat) ∧
      t = { s with v := t.v, pc := s.pc + 2#16 } := by
  obtain ⟨t, hnext, hv, hframe⟩ := resultTo_eq s x a b
  refine ⟨t, hnext, fun r => ?_, hframe⟩
  rw [hv, apply_ite BitVec.toNat, apply_ite BitVec.toNat, ha, hb]

end

/-- Settles O23: the three results end with the flag 0, which is written last (R141). -/
theorem logicResetsVF : Obligations.LogicResetsVF := by
  intro x y s
  refine ⟨⟨encodeXY_alu_toNat x y 1#4, ?_⟩, ⟨encodeXY_alu_toNat x y 2#4, ?_⟩, encodeXY_alu_toNat x y 3#4, ?_⟩
  · exact resultTo_eq s x (s.v[x] ||| s.v[y]) 0#8
  · exact resultTo_eq s x (s.v[x] &&& s.v[y]) 0#8
  · exact resultTo_eq s x (s.v[x] ^^^ s.v[y]) 0#8

/-- Settles O24: the low 8 bits of the 9-bit sum are the sum modulo 256, and its bit 8 is the carry. -/
theorem addRegSetsTheCarry : Obligations.AddRegSetsTheCarry := fun x y s =>
  ⟨encodeXY_alu_toNat x y 4#4, resultTo_toNat s x (sum9_low s.v[x] s.v[y]) (carryOf_toNat s.v[x] s.v[y])⟩

/-- Settles O25: one instruction is the other with the operands of the difference exchanged. -/
theorem subtractionsSetNotBorrow : Obligations.SubtractionsSetNotBorrow := by
  intro x y s
  refine ⟨⟨encodeXY_alu_toNat x y 5#4, ?_⟩, encodeXY_alu_toNat x y 7#4, ?_⟩
  · exact resultTo_toNat s x (byte_sub_toNat s.v[x] s.v[y]) (notBorrow_toNat s.v[x] s.v[y])
  · exact resultTo_toNat s x (byte_sub_toNat s.v[y] s.v[x]) (notBorrow_toNat s.v[y] s.v[x])

/-- Settles O21: both loads are `loadTo`, with the immediate and with `v[y]`. -/
theorem loadsWriteOneRegister : Obligations.LoadsWriteOneRegister := fun x y nn s =>
  ⟨encodeXNN_toNat 0x6#4 x nn, loadTo_eq s x nn, encodeXY_alu_toNat x y 0#4, loadTo_eq s x s.v[y]⟩

/-- Settles O22: the sum of two bytes is modulo 256, and `loadTo` writes no flag. -/
theorem addImmWrapsWithoutAFlag : Obligations.AddImmWrapsWithoutAFlag := by
  intro x nn s
  refine ⟨encodeXNN_toNat 0x7#4 x nn, _, loadTo_eq s x (s.v[x] + nn), fun r => ?_, rfl⟩
  rw [regFile_set_get, apply_ite BitVec.toNat, BitVec.toNat_add]

end Sys2Proof.Machine

/-!
PROOFS of the family of 43_index_memory.md. The range check of R55 decides between the halt and the writes, said once
for the three instructions that touch a block at `i`; each statement then is what the writes leave.
-/

namespace Sys2Proof

/-- The word of an `Fxnn` instruction, its two fixed fields put together. -/
theorem encodeXNN_misc_toNat (x : Reg) (nn : Byte) :
    (encodeXNN 0xF#4 x nn).toNat = 0xF000 + nn.toNat + 0x100 * x.val := by
  rw [encodeXNN_toNat, BitVec.toNat_ofNat]
  omega

end Sys2Proof

namespace Sys2Proof.Machine

section
variable {x : Reg} {s t : State} {last : Nat} {o o' : Result}

/-- The range check of R55 fails: the first branch, which is the halt. -/
theorem ite_rangeFails_of_lt (h : 0xFFF < s.i.toNat + last) :
    (if s.rangeFails last then o else o') = o :=
  if_pos ((s.rangeFails_iff last).2 h)

/-- The range check of R55 passes: the second branch, which writes. -/
theorem ite_rangeFails_of_le (h : s.i.toNat + last ≤ 0xFFF) :
    (if s.rangeFails last then o else o') = o' :=
  if_neg fun hr => Nat.not_lt.2 h ((s.rangeFails_iff last).1 hr)

/-- The address after a block in range is exact, 0x1000 at most (R176). -/
theorem indexAfterBlock_toNat (h : s.i.toNat + x.val ≤ 0xFFF) :
    (indexAfterBlock s x).toNat =
      if s.cfg.ldstIncrementsI then s.i.toNat + x.val + 1 else s.i.toNat := by
  have hsum : (s.i + BitVec.ofNat 16 (x.val + 1)).toNat = s.i.toNat + x.val + 1 := by
    rw [BitVec.toNat_add, BitVec.toNat_ofNat]
    omega
  rw [indexAfterBlock, apply_ite BitVec.toNat, hsum]

/-- An `Fx33` that continues passed its range check (R55, R173). -/
theorem le_of_exec_ldBVx (h : exec (.ldBVx x) s = .next t) : s.i.toNat + 2 ≤ 0xFFF := by
  obtain ⟨hr, -⟩ := ite_halt_eq_next h
  rw [State.rangeFails_iff] at hr
  exact Nat.not_lt.1 hr

end

/-- Settles O28: the index is the operand zero-extended, and the word is of format NNN. -/
theorem ldISetsTheIndex : Obligations.LdISetsTheIndex :=
  fun nnn _ => ⟨encodeNNN_toNat 0xA#4 nnn, rfl⟩

/-- Settles O29: the font address of a byte does not wrap. -/
theorem ldFPointsAtTheCharacter : Obligations.LdFPointsAtTheCharacter :=
  fun x s => ⟨encodeXNN_misc_toNat x 0x29#8, _, rfl, fontAddress_toNat s x, rfl⟩

/-- Settles O31: in range, the three bytes at `i` are the digits of `bcdDigits`, which divide exactly. -/
theorem ldBStoresTheDecimalDigits : Obligations.LdBStoresTheDecimalDigits := by
  intro x s hw
  refine ⟨encodeXNN_misc_toNat x 0x33#8, ite_rangeFails_of_lt, fun h => ?_⟩
  have hfit : s.i.toNat + (bcdDigits s.v[x]).length ≤ memSize := Nat.succ_le_succ h
  have digit {k : Nat} (hk : k < 3) :
      (s.writeBytes s.i.toNat (bcdDigits s.v[x])).readByte (s.i.toNat + k) = (bcdDigits s.v[x])[k] :=
    s.readByte_writeBytes_same hw hfit hk
  refine ⟨_, ite_rangeFails_of_le h, ?_, ?_, ?_, fun a ha => ?_, rfl⟩
  · exact (congrArg BitVec.toNat (digit (k := 0) (by decide))).trans BitVec.toNat_udiv
  · exact (congrArg BitVec.toNat (digit (k := 1) (by decide))).trans BitVec.toNat_umod
  · exact (congrArg BitVec.toNat (digit (k := 2) (by decide))).trans BitVec.toNat_umod
  · exact s.readByte_writeBytes_other ha

/-- Settles O32: in range, the bytes written are the block of `v[0]` to `v[x]`. -/
theorem storeRegsStoresTheBlock : Obligations.StoreRegsStoresTheBlock := by
  intro x s hw
  refine ⟨encodeXNN_misc_toNat x 0x55#8, ite_rangeFails_of_lt, fun h => ?_⟩
  have hexec : exec (.storeRegs x) s =
      .next ((s.writeBytes s.i.toNat (regBlock s x)).setI (indexAfterBlock s x)).advance :=
    ite_rangeFails_of_le h
  refine ⟨_, hexec, fun k hk => readByte_of_exec_storeRegs hw hexec hk, fun a ha => ?_,
    indexAfterBlock_toNat h, rfl⟩
  exact s.readByte_writeBytes_other (by rw [regBlock_length]; omega)

/-- Settles O33: in range, the registers are those of `loadedRegs`. -/
theorem loadRegsLoadsTheBlock : Obligations.LoadRegsLoadsTheBlock := by
  intro x s
  refine ⟨encodeXNN_misc_toNat x 0x65#8, ite_rangeFails_of_lt, fun h => ?_⟩
  exact ⟨_, ite_rangeFails_of_le h, loadedRegs_get s x, indexAfterBlock_toNat h, rfl⟩

/-- Settles O34: up to `v[x]` the load reads the bytes that the store wrote, and above it both leave the register. -/
theorem loadRegsUndoesStoreRegs : Obligations.LoadRegsUndoesStoreRegs := by
  intro x s t w hw hstore habove
  obtain ⟨hr, -⟩ := exec_storeRegs_eq_next hstore
  obtain ⟨-, -, hload⟩ := loadRegsLoadsTheBlock x { t with i := s.i, v := w }
  obtain ⟨u, hu, hv, -⟩ := hload hr
  have hreg (k : Reg) : u.v[k] = s.v[k] := by
    rw [hv k]
    by_cases hk : k ≤ x
    · rw [if_pos hk]
      exact readByte_of_exec_storeRegs hw hstore hk
    · rw [if_neg hk]
      exact habove k (not_le.1 hk)
  exact ⟨u, hu, Vector.ext fun k hk => hreg ⟨k, hk⟩⟩

/-- Settles O35: the load reads the three digits, and `i` did not move between. -/
theorem bcdDigitsLoadBack : Obligations.BcdDigitsLoadBack := by
  intro x s t hw hstore
  have hr := le_of_exec_ldBVx hstore
  obtain ⟨-, -, hdigits⟩ := ldBStoresTheDecimalDigits x s hw
  obtain ⟨t', ht', hhundreds, htens, hones, -⟩ := hdigits hr
  cases ht'.symm.trans hstore
  have hi : t.i = s.i := (exec_changesOnly hstore).i (by simp [writes])
  rw [← hi] at hr hhundreds htens hones
  obtain ⟨-, -, hload⟩ := loadRegsLoadsTheBlock 2 t
  obtain ⟨u, hu, hv, -⟩ := hload hr
  have hv0 : u.v[0] = t.readByte t.i.toNat := hv 0
  have hv1 : u.v[1] = t.readByte (t.i.toNat + 1) := hv 1
  have hv2 : u.v[2] = t.readByte (t.i.toNat + 2) := hv 2
  refine ⟨u, hu, ?_⟩
  rw [hv0, hv1, hv2, hhundreds, htens, hones]
  have := s.v[x].isLt
  omega

end Sys2Proof.Machine

/-!
PROOFS of the family of 44_display.md. A clear leaves the blank screen, whose cells `pixel_blank` reads.
-/

namespace Sys2Proof.Machine

/-- `gfx[k]` of the blank screen is 0, for every `k` (R190). -/
@[simp] theorem gfxCell_blank (k : Nat) : gfxCell (Vector.replicate 32 0#64) k = false :=
  pixel_blank (k % 64) (k / 64)

/-- Settles O37: the screen left is the blank one, under either setting of the throttle. -/
theorem clsClearsEveryCell : Obligations.ClsClearsEveryCell :=
  ⟨rfl, fun _ => ⟨_, rfl, fun k _ => gfxCell_blank k, rfl⟩⟩

end Sys2Proof.Machine

/-!
PROOFS of the family of 45_timers_keys.md. The key wait goes on exactly as the search for the lowest pressed key
answers, which `lowestKey_eq_none` and `lowestKey_eq_some` say in terms of the polled keys.
-/

namespace Sys2Proof.Machine

section
variable {x k : Reg} {s : State}

/-- With no key found, the state is left as it was, so that the next cycle waits again (R213). -/
theorem exec_ldVxK_of_lowestKey_none (h : lowestKey s = none) : exec (.ldVxK x) s = .next s := by
  simp only [exec, execLdVxK, h, State.stay]

/-- With a key found, its number is loaded (R213). -/
theorem exec_ldVxK_of_lowestKey_some (h : lowestKey s = some k) :
    exec (.ldVxK x) s = loadTo s x (BitVec.ofNat 8 k.val) := by
  simp only [exec, execLdVxK, h, loadTo]

end

/-- Settles O43: the search finds no key exactly when none is down, and else the lowest one that is. -/
theorem keyWaitTakesTheLowestKey : Obligations.KeyWaitTakesTheLowestKey := by
  intro x s
  refine ⟨encodeXNN_misc_toNat x 0x0A#8, fun hnone => ?_, fun k hdown hlow => ?_⟩
  · exact exec_ldVxK_of_lowestKey_none ((lowestKey_eq_none s).2 hnone)
  · rw [exec_ldVxK_of_lowestKey_some ((lowestKey_eq_some s).2 ⟨hdown, hlow⟩)]
    exact loadTo_eq s x _

end Sys2Proof.Machine

/-!
PROOFS of the family of 70_reset_and_hazards.md. What the reset memory reads as (R400); and how a run's delay timer
moves from one iteration to the next while no `Fx15` is fetched, from which it runs out by induction on its value.
-/

namespace Sys2Proof.Machine

/-! ### The reset state and the load -/

section
variable (f : Font)

/-- An unlisted address reads as FONT at 0x50 to 0x9F (R33). -/
theorem Memory.unlisted_font (k : Fin 80) : Memory.unlisted f (0x50 + k.val) = f[k] := by
  simp [Memory.unlisted, fontBase, fontLen]

/-- An unlisted address outside the font reads as 0 (R36). -/
theorem Memory.unlisted_of_outside_font {a : Nat} (h : a < 0x50 ∨ 0x9F < a) : Memory.unlisted f a = 0#8 :=
  dif_neg (by rw [fontBase, fontLen]; omega)

end

/-- Settles O55: the memory left lists no cell, so a byte of it is that of an unlisted address; and of the state
before, `initialize()` keeps nothing of the core but the configuration. -/
theorem initializeLeavesTheResetState : Obligations.InitializeLeavesTheResetState := by
  intro s
  refine ⟨fun r => Vector.getElem_replicate r.isLt, rfl, rfl, rfl, fun k => Vector.getElem_replicate k.isLt, rfl, rfl,
    fun k => Vector.getElem_replicate k.isLt, fun k _ => gfxCell_blank k, Memory.unlisted_font s.cfg.font,
    fun _ => Memory.unlisted_of_outside_font s.cfg.font, rfl, fun s' hcfg => ?_⟩
  rw [State.initialized, State.initialized, hcfg]

/-- Settles O56: the two branches of `State.load_eq`; a program that fits ends inside memory, so its bytes read
back. -/
theorem loadPlacesTheProgram : Obligations.LoadPlacesTheProgram := by
  intro s bytes hw
  rw [State.load_eq]
  refine ⟨fun hlong => if_pos hlong, fun hlen => ?_⟩
  have hfit : 0x200 + bytes.length ≤ memSize := by
    rw [memSize]
    omega
  exact ⟨_, if_neg (Nat.not_lt.2 hlen), fun _ hk => s.readByte_writeBytes_same hw hfit hk,
    fun _ ha => s.readByte_writeBytes_other ha, rfl⟩

/-! ### The delay timer of a run -/

section
variable {s t : State}

theorem delayTimer_mem_writes {i : Instr} : Elem.delayTimer ∈ writes i ↔ ∃ x, i = .ldDTVx x := by
  cases i <;> simp [writes, regsUpTo]

/-- A cycle that continues leaves the coming inputs. -/
theorem cycle_input (h : cycle s = .next t) : t.input = s.input := by
  obtain ⟨_, i, -, -, he⟩ := cycle_eq_next h
  have hf := exec_changesOnly he
  exact State.input_congr hf.env hf.drawIndex

/-- A cycle that does not run an `Fx15` leaves the delay timer (R29). -/
theorem cycle_delayTimer (hno : ∀ w x, fetch s = some w → decode w ≠ some (.ldDTVx x)) (h : cycle s = .next t) :
    t.delayTimer = s.delayTimer := by
  obtain ⟨w, i, hfetch, hdecode, he⟩ := cycle_eq_next h
  refine (exec_changesOnly he).delayTimer fun hm => ?_
  obtain ⟨x, rfl⟩ := delayTimer_mem_writes.1 hm
  exact hno w x hfetch hdecode

/-- A step that does not run an `Fx15` moves the delay timer only by a due tick (R311). -/
theorem step_delayTimer (hno : ∀ w x, fetch s = some w → decode w ≠ some (.ldDTVx x)) (h : step s = .next t) :
    t.delayTimer = if s.input.frameDue then countDown s.delayTimer else s.delayTimer := by
  obtain ⟨-, u, hc, rfl⟩ := step_eq_next h
  have hdelay : u.delayTimer = s.delayTimer := cycle_delayTimer (s := s.poll) hno hc
  have hinput : u.input = s.input := cycle_input (s := s.poll) hc
  rw [State.endIteration_delayTimer, hdelay, hinput]

end

/-- From iteration `n` on the delay timer moves only by the ticks that are due. -/
def CountsDownFrom (e : Environment) (r : Nat → State) (n : Nat) : Prop :=
  ∀ m, n ≤ m → (r (m + 1)).delayTimer = if (e m).frameDue then countDown (r m).delayTimer else (r m).delayTimer

/-- A run counts down from the point after which it fetches no `Fx15`. -/
theorem IsRun.countsDownFrom {e : Environment} {r : Nat → State} {n : Nat} (hr : IsRun e r)
    (hno : ∀ m w x, n ≤ m → fetch (r m) = some w → decode w ≠ some (.ldDTVx x)) : CountsDownFrom e r n := by
  obtain ⟨-, hstep⟩ := hr
  exact fun m hm => step_delayTimer (s := (r m).facing (e m)) (fun w x => hno m w x hm) (hstep m)

namespace CountsDownFrom

variable {e : Environment} {r : Nat → State} {n m k : Nat}

theorem mono (h : CountsDownFrom e r n) (hnm : n ≤ m) : CountsDownFrom e r m :=
  fun k hk => h k (hnm.trans hk)

/-- A due tick takes one off the timer, and it stays at 0 (R311). -/
theorem toNat_succ_of_due (h : CountsDownFrom e r n) (hm : n ≤ m) (hdue : (e m).frameDue = true) :
    (r (m + 1)).delayTimer.toNat = (r m).delayTimer.toNat - 1 := by
  rw [h m hm, if_pos hdue, countDown_toNat]

/-- No iteration makes the timer greater. -/
theorem toNat_succ_le (h : CountsDownFrom e r n) (hm : n ≤ m) :
    (r (m + 1)).delayTimer.toNat ≤ (r m).delayTimer.toNat := by
  by_cases hdue : (e m).frameDue = true
  · rw [h.toNat_succ_of_due hm hdue]
    exact Nat.sub_le _ _
  · rw [h m hm, if_neg hdue]

theorem toNat_le (h : CountsDownFrom e r n) (hk : n ≤ k) : (r k).delayTimer.toNat ≤ (r n).delayTimer.toNat :=
  antitoneOn_nat_Ici_of_succ_le (f := fun m => (r m).delayTimer.toNat) (fun _ hm => h.toNat_succ_le hm)
    Set.self_mem_Ici hk hk

/-- With ticks for ever the timer comes to 0: each next tick leaves a smaller value to run out. -/
theorem exists_toNat_eq_zero (ht : TicksForever e) (h : CountsDownFrom e r n) :
    ∃ m, n ≤ m ∧ (r m).delayTimer.toNat = 0 := by
  induction hv : (r n).delayTimer.toNat using Nat.strong_induction_on generalizing n with
  | _ v ih =>
    by_cases hv0 : v = 0
    · exact ⟨n, le_rfl, hv.trans hv0⟩
    · obtain ⟨k, hk, hdue⟩ := ht n
      have hle := h.toNat_le hk
      have htick := h.toNat_succ_of_due hk hdue
      obtain ⟨m, hm, hzero⟩ := ih _ (by omega) (h.mono (m := k + 1) (by omega)) rfl
      exact ⟨m, by omega, hzero⟩

end CountsDownFrom

/-- Settles O59: the run counts down from `n`, so it comes to 0, and from there no iteration makes it greater. -/
theorem fairRunDelayTimerRunsOut : Obligations.FairRunDelayTimerRunsOut := by
  rintro e r n ⟨hrun, hticks, -⟩ hno
  have hcount := hrun.countsDownFrom hno
  obtain ⟨m, hm, hzero⟩ := hcount.exists_toNat_eq_zero hticks
  refine ⟨m, hm, fun k hk => BitVec.eq_of_toNat_eq ?_⟩
  exact Nat.le_zero.1 (((hcount.mono hm).toNat_le hk).trans_eq hzero)

end Sys2Proof.Machine

/-!
PROOFS on decoding (30_encoding.md) beside the family's own: the words that the decoder refuses are those that
R75's checks refuse, one major opcode at a time.
-/

namespace Sys2Proof

section
variable {w : Word}

/-- A word that a check of R75 refuses is no instruction's encoding. -/
theorem decode_eq_none_of_illFormed (h : wellFormedWord w = false) : decode w = none := by
  refine Option.eq_none_iff_forall_ne_some.2 fun i hi => ?_
  rw [← encode_of_decode hi, wellFormedWord_encode] at h
  cases h

theorem wellFormed0_of_decode0 (h : decode0 w = none) : wellFormed0 w = false := by
  unfold decode0 at h
  split at h
  · cases h
  split at h
  · cases h
  · simp [wellFormed0, *]

theorem wellFormed8_of_decode8 (h : decode8 w = none) : wellFormed8 w = false := by
  unfold decode8 at h
  split at h <;> cases h
  simp only [imp_false] at *
  simp only [wellFormed8, List.mem_cons, List.not_mem_nil, or_false, Bool.not_eq_false', decide_eq_true_eq]
  bv_omega

theorem wellFormedE_of_decodeE (h : decodeE w = none) : wellFormedE w = false := by
  unfold decodeE at h
  split at h <;> cases h
  simp_all [wellFormedE, ← BitVec.toNat_inj]

theorem wellFormedF_of_decodeF (h : decodeF w = none) : wellFormedF w = false := by
  unfold decodeF at h
  split at h <;> cases h
  simp_all [wellFormedF, ← BitVec.toNat_inj]

/-- Every word that the decoder refuses fails the check of its major opcode. -/
theorem illFormed_of_decode_eq_none (h : decode w = none) : wellFormedWord w = false := by
  unfold decode at h
  unfold wellFormedWord
  split at h
  case h_1 hm => rw [hm]; exact wellFormed0_of_decode0 h
  case h_6 hm | h_10 hm =>
    rw [hm]
    split at h <;> cases h
    next hn => exact beq_false_of_ne hn
  case h_9 hm => rw [hm]; exact wellFormed8_of_decode8 h
  case h_15 hm => rw [hm]; exact wellFormedE_of_decodeE h
  case h_16 =>
    have hF : (opH w).toNat = 0xF := by simp only [imp_false] at *; omega
    rw [hF]
    exact wellFormedF_of_decodeF h
  all_goals cases h

end

/-- Settles O4: by R75's checks in one direction, and in the other because an encoded word passes them. -/
theorem refusedWordsAreTheUnknownOpcodes : Obligations.RefusedWordsAreTheUnknownOpcodes :=
  fun _ => ⟨illFormed_of_decode_eq_none, decode_eq_none_of_illFormed⟩

/-- Settles O5: each word is evaluated. -/
theorem wordsOfTheSpecDecode : Obligations.WordsOfTheSpecDecode := by
  unfold Obligations.WordsOfTheSpecDecode
  decide

end Sys2Proof

/-!
PROOFS on `Dxyn` (44_display.md). A draw inverts a set of cells, said once (`Draws`), and draws of sets apart compose;
so the pixels of a row, the rows of a sprite and the sprite are each the draw of a box of the screen, and the
statements follow from the box of the whole sprite.
-/

namespace Sys2Proof.Machine

/-! ### What a draw does to the screen, and when it collides -/

/-- From `c` to `c'` the cells that `cov` covers were inverted, and a set cell among them is a collision (R191). -/
structure Draws (cov : Nat → Nat → Bool) (c c' : Canvas) : Prop where
  cell : ∀ qx qy, pixel c'.1 qx qy = (pixel c.1 qx qy ^^ cov qx qy)
  collision : c'.2 = true ↔ c.2 = true ∨ ∃ qx qy, cov qx qy = true ∧ pixel c.1 qx qy = true

namespace Draws

variable {cov cov' both : Nat → Nat → Bool} {c c' c'' : Canvas}

theorem refl (h : ∀ qx qy, cov qx qy = false) : Draws cov c c where
  cell qx qy := by rw [h, Bool.xor_false]
  collision := by simp [h]

theorem cell_of_not_covered (h : Draws cov c c') {qx qy : Nat} (hc : cov qx qy = false) :
    pixel c'.1 qx qy = pixel c.1 qx qy := by
  rw [h.cell, hc, Bool.xor_false]

/-- Two draws of cells apart are the draw of both: the second finds its cells as the first did. -/
theorem trans (h : Draws cov c c') (h' : Draws cov' c' c'')
    (hboth : ∀ qx qy, both qx qy = true ↔ cov qx qy = true ∨ cov' qx qy = true)
    (hapart : ∀ qx qy, cov qx qy = true → cov' qx qy = false) : Draws both c c'' where
  cell qx qy := by
    have hor : both qx qy = (cov qx qy || cov' qx qy) := by rw [Bool.eq_iff_iff, hboth, Bool.or_eq_true]
    rw [h'.cell, h.cell, hor]
    cases hc : cov qx qy
    · rw [Bool.xor_false, Bool.false_or]
    · rw [hapart qx qy hc, Bool.xor_false, Bool.true_or]
  collision := by
    have second : (∃ qx qy, cov' qx qy = true ∧ pixel c'.1 qx qy = true) ↔
        ∃ qx qy, cov' qx qy = true ∧ pixel c.1 qx qy = true := by
      refine exists₂_congr fun qx qy => and_congr_right fun hc' => ?_
      have hc : cov qx qy = false := Bool.eq_false_iff.2 fun hc => by simp [hapart qx qy hc] at hc'
      rw [h.cell_of_not_covered hc]
    rw [h'.collision, h.collision, second, or_assoc]
    simp only [hboth, or_and_right, exists_or]

/-- One sprite pixel covers one cell, or none. -/
theorem drawPixel (px py : Nat) (on : Bool) :
    Draws (fun qx qy => on && decide (px < 64) && decide (py < 32) && decide (qx = px ∧ qy = py))
      c (drawPixel px py on c) where
  cell qx qy := pixel_drawPixel px py qx qy on c
  collision := by
    simp only [collision_drawPixel, Bool.or_eq_true, Bool.and_eq_true, decide_eq_true_eq]
    refine or_congr_right ⟨fun ⟨h, hp⟩ => ⟨px, py, ⟨h, rfl, rfl⟩, hp⟩, ?_⟩
    rintro ⟨_, _, ⟨h, rfl, rfl⟩, hp⟩
    exact ⟨h, hp⟩

end Draws

/-! ### The cells that a sprite covers -/

/-- The cells on the screen of a box `w` wide and `h` high with its top left corner at `(x0, y0)`, where `bit` is set;
a sprite's cells are such a box (`spriteCovers_eq_boxCovers`). -/
def boxCovers (x0 y0 w h : Nat) (bit : Nat → Nat → Bool) (qx qy : Nat) : Bool :=
  decide (qx < 64) && decide (qy < 32) && decide (x0 ≤ qx) && decide (qx < x0 + w) &&
    decide (y0 ≤ qy) && decide (qy < y0 + h) && bit (qx - x0) (qy - y0)

section
variable {x0 y0 w h qx qy : Nat} {bit : Nat → Nat → Bool}

theorem boxCovers_iff : boxCovers x0 y0 w h bit qx qy = true ↔
    ((qx < 64 ∧ qy < 32) ∧ (x0 ≤ qx ∧ qx < x0 + w) ∧ y0 ≤ qy ∧ qy < y0 + h) ∧ bit (qx - x0) (qy - y0) = true := by
  simp only [boxCovers, Bool.and_eq_true, decide_eq_true_eq, and_assoc]

theorem boxCovers_width_zero : boxCovers x0 y0 0 h bit qx qy = false := by
  rw [Bool.eq_false_iff, ne_eq, boxCovers_iff]
  omega

theorem boxCovers_height_zero : boxCovers x0 y0 w 0 bit qx qy = false := by
  rw [Bool.eq_false_iff, ne_eq, boxCovers_iff]
  omega

/-- A row one wider: the row and the cell to the right of it. -/
theorem boxCovers_row_succ : boxCovers x0 y0 (w + 1) 1 bit qx qy = true ↔
    boxCovers x0 y0 w 1 bit qx qy = true ∨
      (bit w 0 && decide (x0 + w < 64) && decide (y0 < 32) && decide (qx = x0 + w ∧ qy = y0)) = true := by
  simp only [boxCovers_iff, Bool.and_eq_true, decide_eq_true_eq]
  by_cases hq : qx = x0 + w ∧ qy = y0
  · obtain ⟨rfl, rfl⟩ := hq
    rw [Nat.add_sub_cancel_left, Nat.sub_self]
    refine ⟨fun ⟨hbox, hbit⟩ => .inr ⟨⟨⟨hbit, by omega⟩, by omega⟩, rfl, rfl⟩, ?_⟩
    rintro (⟨hbox, -⟩ | ⟨⟨⟨hbit, hx⟩, hy⟩, -⟩)
    · omega
    · exact ⟨by omega, hbit⟩
  · refine ⟨fun ⟨hbox, hbit⟩ => .inl ⟨by omega, hbit⟩, ?_⟩
    rintro (⟨hbox, hbit⟩ | ⟨-, hq'⟩)
    · exact ⟨by omega, hbit⟩
    · exact absurd hq' hq

/-- A box one higher: its top row and the box below it. -/
theorem boxCovers_height_succ : boxCovers x0 y0 w (h + 1) bit qx qy = true ↔
    boxCovers x0 y0 w 1 (fun k _ => bit k 0) qx qy = true ∨
      boxCovers x0 (y0 + 1) w h (fun k r => bit k (r + 1)) qx qy = true := by
  simp only [boxCovers_iff]
  rcases Nat.lt_trichotomy qy y0 with hq | rfl | hq
  · omega
  · simp
  · have hrow : qy - (y0 + 1) + 1 = qy - y0 := by omega
    rw [hrow]
    refine ⟨fun ⟨hbox, hbit⟩ => .inr ⟨by omega, hbit⟩, ?_⟩
    rintro (⟨hbox, -⟩ | ⟨hbox, hbit⟩)
    · omega
    · exact ⟨by omega, hbit⟩

end

section
variable {x0 y0 : Nat} {row : Byte} {rows : List Byte} {c : Canvas}

/-- The first `n` pixels of a row, from the left. -/
theorem draws_foldl_drawPixel (n : Nat) :
    Draws (boxCovers x0 y0 n 1 fun k _ => row.getLsbD (7 - k)) c
      ((List.range n).foldl (fun acc k => drawPixel (x0 + k) y0 (row.getLsbD (7 - k)) acc) c) := by
  induction n with
  | zero => exact .refl fun _ _ => boxCovers_width_zero
  | succ n ih =>
    rw [List.range_succ, List.foldl_append]
    refine ih.trans (.drawPixel (x0 + n) y0 _) (fun _ _ => boxCovers_row_succ) fun qx qy hbox => ?_
    have hne : ¬ (qx = x0 + n ∧ qy = y0) := by rw [boxCovers_iff] at hbox; omega
    simp [hne]

/-- The rows of a sprite, from the top. -/
theorem draws_drawRows :
    Draws (boxCovers x0 y0 8 rows.length fun k r => (rows.getD r 0#8).getLsbD (7 - k)) c (drawRows x0 y0 rows c) := by
  induction rows generalizing y0 c with
  | nil => exact .refl fun _ _ => boxCovers_height_zero
  | cons row rest ih =>
    refine (draws_foldl_drawPixel 8).trans ih (fun _ _ => boxCovers_height_succ) fun qx qy hbox => ?_
    rw [boxCovers_iff] at hbox
    rw [Bool.eq_false_iff, ne_eq, boxCovers_iff]
    omega

end

section
variable {x y : Reg} {n : Nibble} {s t : State}

theorem spriteCovers_eq_boxCovers (m : Nat) :
    spriteCovers s x y m = boxCovers (startColumn s x) (startRow s y) 8 m
      fun k r => (s.readByte (s.i.toNat + r)).getLsbD (7 - k) := rfl

/-- A sprite covers only cells of the screen: it is clipped (R191). -/
theorem lt_of_spriteCovers {m px py : Nat} (h : spriteCovers s x y m px py = true) : px < 64 ∧ py < 32 := by
  rw [spriteCovers_eq_boxCovers, boxCovers_iff] at h
  exact h.1.1

/-- The rows that `drawn` draws cover the cells of the sprite. -/
theorem boxCovers_spriteRows (m : Nat) :
    (boxCovers (startColumn s x) (startRow s y) 8 (spriteRows s m).length
      fun k r => ((spriteRows s m).getD r 0#8).getLsbD (7 - k)) = spriteCovers s x y m := by
  funext qx qy
  rw [Bool.eq_iff_iff, spriteCovers_eq_boxCovers, boxCovers_iff, boxCovers_iff, spriteRows_length]
  refine and_congr_right fun hbox => ?_
  have hr : qy - startRow s y < (spriteRows s m).length := by rw [spriteRows_length]; omega
  rw [List.getD_eq_getElem _ _ hr, spriteRows_get]

/-- `drawn` is the draw of the sprite on the screen of `s`, before any collision (D12). -/
theorem draws_drawn (m : Nat) : Draws (spriteCovers s x y m) (s.gfx, false) (drawn s x y m) := by
  rw [← boxCovers_spriteRows]
  exact draws_drawRows

/-! ### The instruction -/

/-- The range of `Dxyn`'s rows is checked only where it has one (R55, D15). -/
theorem rangeFails_rows_iff {m : Nat} :
    (decide (m > 0) && s.rangeFails (m - 1)) = true ↔ 0 < m ∧ s.i.toNat + m - 1 > 0xFFF := by
  rw [Bool.and_eq_true, decide_eq_true_eq, State.rangeFails_iff]
  omega

theorem State.throttled_iff : s.throttled = true ↔ s.cfg.drawThrottle = true ∧ s.input.stall = true := by
  rw [State.throttled, Bool.and_eq_true]

/-- A throttled `Dxyn` answers before its range check (R193, R303). -/
theorem exec_drw_of_throttled (h : s.throttled = true) : exec (.drw x y n) s = .next s := if_pos h

/-- The state a `Dxyn` leaves that draws `c` (R191). -/
def State.withCanvas (s : State) (c : Canvas) : State :=
  ({ s with gfx := c.1 }.setFlag (flagOf c.2)).advance

/-- A `Dxyn` that neither stalls nor fails its range check draws the sprite. -/
theorem exec_drw_of_unthrottled (h : ¬ s.throttled = true) (hr : ¬ (0 < n.toNat ∧ s.i.toNat + n.toNat - 1 > 0xFFF)) :
    exec (.drw x y n) s = .next (s.withCanvas (drawn s x y n.toNat)) := by
  rw [← rangeFails_rows_iff] at hr
  exact (if_neg h).trans (if_neg hr)

/-- A `Dxyn` that goes on without a stall passed its range check and drew. -/
theorem exec_drw_eq_next (hs : ¬ s.throttled = true) (h : exec (.drw x y n) s = .next t) :
    ¬ (0 < n.toNat ∧ s.i.toNat + n.toNat - 1 > 0xFFF) ∧ t = s.withCanvas (drawn s x y n.toNat) := by
  obtain ⟨hr, h⟩ := ite_halt_eq_next ((if_neg hs).symm.trans h)
  cases h
  exact ⟨rangeFails_rows_iff.not.1 hr, rfl⟩

theorem State.withCanvas_vf (c : Canvas) : (s.withCanvas c).v[15] = flagOf c.2 :=
  (regFile_set_get s.v 15 15 _).trans (if_pos rfl)

theorem State.withCanvas_v_other (c : Canvas) {r : Reg} (hr : r ≠ 15) : (s.withCanvas c).v[r] = s.v[r] :=
  (regFile_set_get s.v 15 r _).trans (if_neg hr)

theorem flagOf_eq_one {b : Bool} : flagOf b = 1#8 ↔ b = true := by cases b <;> decide

theorem flagOf_eq_zero_or_one (b : Bool) : flagOf b = 0#8 ∨ flagOf b = 1#8 := by cases b <;> decide

theorem flagOf_eq_zero {b : Bool} : flagOf b = 0#8 ↔ ¬ b = true := by cases b <;> decide

theorem not_throttled_of_off (h : s.cfg.drawThrottle = false ∨ s.input.stall = false) : ¬ s.throttled = true := by
  rw [State.throttled]
  rcases h with h | h <;> simp [h]

/-- The cells of the screen are all of the framebuffer. -/
theorem framebuffer_ext {g g' : Framebuffer} (h : ∀ px py, pixel g px py = pixel g' px py) : g = g' := by
  refine Vector.ext fun py hy => BitVec.eq_of_getLsbD_eq fun px _ => ?_
  have hcell := h px py
  rwa [pixel, pixel, dif_pos hy, dif_pos hy] at hcell

end

/-- Settles O39: the stall is the first branch. -/
theorem throttledDrwStalls : Obligations.ThrottledDrwStalls :=
  fun _ _ _ _ hthrottle hstall => exec_drw_of_throttled (State.throttled_iff.2 ⟨hthrottle, hstall⟩)

/-- Settles O38: the canvas that is left is the draw of the sprite. -/
theorem drwXorsTheSprite : Obligations.DrwXorsTheSprite := by
  intro x y n s hs hr
  have hrange : ¬ (0 < n.toNat ∧ s.i.toNat + n.toNat - 1 > 0xFFF) := by
    rcases hr with rfl | hr
    · exact fun h => absurd h.1 (by decide)
    · omega
  have hdraw : Draws (spriteCovers s x y n.toNat) (s.gfx, false) (drawn s x y n.toNat) := draws_drawn n.toNat
  refine ⟨_, exec_drw_of_unthrottled (not_throttled_of_off hs) hrange, fun px py _ _ => hdraw.cell px py, ?_, ?_,
    fun r hr => State.withCanvas_v_other _ hr, rfl⟩
  · rw [State.withCanvas_vf]
    exact flagOf_eq_zero_or_one _
  · rw [State.withCanvas_vf, flagOf_eq_one, hdraw.collision]
    simp

/-- Settles O40: the second draw covers the cells that the first did, so it inverts each cell back; what it finds set
on a blank screen is what the first one covered. -/
theorem drawingTwiceRestoresTheScreen : Obligations.DrawingTwiceRestoresTheScreen := by
  intro x y n s t hx hy hs hexec
  obtain ⟨hrange, rfl⟩ := exec_drw_eq_next (not_throttled_of_off hs) hexec
  have hfirst : Draws (spriteCovers s x y n.toNat) (s.gfx, false) (drawn s x y n.toNat) := draws_drawn n.toNat
  generalize drawn s x y n.toNat = c at *
  have hcov : spriteCovers (s.withCanvas c) x y n.toNat = spriteCovers s x y n.toNat := by
    unfold spriteCovers
    rw [State.withCanvas_v_other c hx, State.withCanvas_v_other c hy]
    rfl
  have hsecond : Draws (spriteCovers s x y n.toNat) (c.1, false) (drawn (s.withCanvas c) x y n.toNat) := by
    rw [← hcov]
    exact draws_drawn n.toNat
  refine ⟨_, exec_drw_of_unthrottled (not_throttled_of_off hs) hrange, framebuffer_ext fun px py => ?_, fun hblank => ?_⟩
  · calc pixel (drawn (s.withCanvas c) x y n.toNat).1 px py
        = ((pixel s.gfx px py ^^ spriteCovers s x y n.toNat px py) ^^ spriteCovers s x y n.toNat px py) := by
          rw [hsecond.cell, hfirst.cell]
      _ = pixel s.gfx px py := by rw [Bool.xor_assoc, Bool.xor_self, Bool.xor_false]
  · rw [State.withCanvas_vf, State.withCanvas_vf, flagOf_eq_zero, flagOf_eq_one, hfirst.collision, hsecond.collision]
    simp [hfirst.cell, hblank]

end Sys2Proof.Machine

/-!
PROOFS on halts (60_exceptions.md sections 1 and 2). Every instruction answers as `haltOf` says, said once; what a
halt reports and that it repeats are then facts about `haltOf`.
-/

namespace Sys2Proof.Machine

/-! ### An instruction halts exactly where `haltOf` says -/

/-- The outcome `o` is the halt `h`, or a next state where there is none. -/
def Answers (h : Option Fault) (o : Result) : Prop := h.elim (∃ t, o = .next t) (o = .fault ·)

namespace Answers

variable {h : Option Fault} {o : Result} {f : Fault} {t : State}

theorem next : Answers none (.next t) := ⟨t, rfl⟩

section
variable {c p : Prop} [Decidable c] [Decidable p]

theorem halt_of (hp : p) : Answers (if p then some f else none) (.fault f) := by
  rw [if_pos hp]
  exact rfl

theorem next_of_not (hp : ¬ p) : Answers (if p then some f else none) (.next t) := by
  rw [if_neg hp]
  exact next

/-- A check that halts on the condition that `haltOf` lists. -/
theorem ite (hcp : c ↔ p) : Answers (if p then some f else none) (if c then .fault f else .next t) := by
  by_cases hc : c
  · rw [if_pos hc]
    exact halt_of (hcp.1 hc)
  · rw [if_neg hc]
    exact next_of_not (hcp.not.1 hc)

end

theorem eq_fault_iff (ha : Answers h o) : o = .fault f ↔ h = some f := by
  cases h with
  | none => obtain ⟨t, rfl⟩ := ha; simp
  | some g => cases (ha : o = .fault g); simp

theorem ne_refused (ha : Answers h o) (r : Refusal) : o ≠ .refused r := by
  cases h with
  | none => obtain ⟨t, rfl⟩ := ha; simp
  | some g => cases (ha : o = .fault g); simp

end Answers

section
variable {i : Instr} {s : State} {f : Fault}

theorem haltOf_drw (x y : Reg) (n : Nibble) (s : State) :
    haltOf (.drw x y n) s =
      if ¬ s.throttled = true ∧ 0 < n.toNat ∧ s.i.toNat + n.toNat - 1 > 0xFFF
      then some (.memoryOutOfRange (encode (.drw x y n)) s.pc) else none := by
  simp only [haltOf, State.throttled_iff]

/-- A `Dxyn` checks its range only where it does not stall (R303). -/
theorem drw_answers (x y : Reg) (n : Nibble) (s : State) :
    Answers (haltOf (.drw x y n) s) (exec (.drw x y n) s) := by
  rw [haltOf_drw]
  by_cases hs : s.throttled = true
  · rw [exec_drw_of_throttled hs]
    exact .next_of_not fun h => h.1 hs
  · have hexec : exec (.drw x y n) s = _ := if_neg hs
    rw [hexec]
    exact .ite (rangeFails_rows_iff.trans (and_iff_right hs).symm)

/-- Every instruction halts as `haltOf` lists, and else goes on (R301). -/
theorem exec_answers (i : Instr) (s : State) : Answers (haltOf i s) (exec i s) := by
  cases i with
  | cls | jp | seImm | sneImm | seReg | ldImm | addImm | ldReg | orReg | andReg | xorReg | addReg | subReg
  | shrReg | subnReg | shlReg | sneReg | ldI | jpV0 | rnd | ldVxDT | ldDTVx | ldSTVx | ldFVx => exact .next
  | ldVxK x =>
    cases hk : lowestKey s with
    | none => rw [exec_ldVxK_of_lowestKey_none hk]; exact .next
    | some k => rw [exec_ldVxK_of_lowestKey_some hk]; exact .next
  | drw x y n => exact drw_answers x y n s
  | ret =>
    rw [exec, execRet]
    cases hp : s.pop? with
    | none => exact .halt_of (s.pop?_eq_none.1 hp)
    | some t => exact .next_of_not (s.pop?_eq_none.not.1 (by simp [hp]))
  | call nnn =>
    rw [exec, execCall]
    cases hp : s.push? (addr nnn) with
    | none => exact .halt_of (s.push?_eq_none.1 hp)
    | some t => exact .next_of_not ((s.push?_eq_none (w := addr nnn)).not.1 (by simp [hp]))
  | skp x =>
    rw [exec, execSkp]
    cases hk : keyCode s x with
    | none => exact .halt_of ((keyCode_eq_none s).1 hk)
    | some k => exact .next_of_not ((keyCode_eq_none s).not.1 (by simp [hk]))
  | sknp x =>
    rw [exec, execSknp]
    cases hk : keyCode s x with
    | none => exact .halt_of ((keyCode_eq_none s).1 hk)
    | some k => exact .next_of_not ((keyCode_eq_none s).not.1 (by simp [hk]))
  | addIVx x => exact .ite Iff.rfl
  | ldBVx x => exact .ite (s.rangeFails_iff 2)
  | storeRegs x | loadRegs x => exact .ite (s.rangeFails_iff x.val)

theorem exec_eq_fault_iff : exec i s = .fault f ↔ haltOf i s = some f := (exec_answers i s).eq_fault_iff

end

/-- Settles O44: by the answer of each instruction. -/
theorem execHaltsExactlyAsListed : Obligations.ExecHaltsExactlyAsListed := by
  intro i s
  have ha := exec_answers i s
  refine ⟨fun f => ha.eq_fault_iff, ha.ne_refused, fun hnone => ?_⟩
  rw [hnone] at ha
  exact ha

/-! ### What a halt reports, and that it repeats -/

section
variable {i : Instr} {s : State} {f : Fault}

/-- A halt of an instruction reports its word, the `pc` and a cause code from 2 to 6 (R301, R302). -/
theorem haltSignal_of_haltOf (h : haltOf i s = some f) :
    ∃ c : BitVec 3, haltSignal f = some ⟨c, some (encode i), s.pc⟩ ∧ 2 ≤ c.toNat ∧ c.toNat ≤ 6 := by
  cases i <;> simp only [haltOf, reduceCtorEq, Option.ite_none_right_eq_some, Option.some.injEq] at h
  all_goals
    obtain ⟨-, rfl⟩ := h
    exact ⟨_, rfl, by decide, by decide⟩

theorem cycle_of_fetch_none (h : fetch s = none) : cycle s = .fault (.fetchOutOfRange s.pc) := by
  simp only [cycle, h]

/-- No halt condition but that of `Dxyn` reads the environment (R301). -/
theorem haltOf_withEnvironment (hi : ∀ x y n, i ≠ .drw x y n) (keys : Keys) (env : List EnvInput) (k : Nat) :
    haltOf i (s.withEnvironment keys env k) = haltOf i s := by
  cases i with
  | drw x y n => exact absurd rfl (hi x y n)
  | _ => rfl

/-- A `Dxyn` that halts, halts whatever the environment answers, or it is stalled (R303). -/
theorem haltOf_drw_withEnvironment {x y : Reg} {n : Nibble} (h : haltOf (.drw x y n) s = some f) (keys : Keys)
    (env : List EnvInput) (k : Nat) (hs : ¬ (s.withEnvironment keys env k).throttled = true) :
    haltOf (.drw x y n) (s.withEnvironment keys env k) = some f := by
  rw [haltOf_drw] at h ⊢
  obtain ⟨⟨-, hr⟩, hf⟩ := Option.ite_none_right_eq_some.1 h
  exact (if_pos ⟨hs, hr⟩).trans hf

end

/-- Settles O7: the fetch answers nothing from 0xFFF on. -/
theorem fetchPastTheEndHalts : Obligations.FetchPastTheEndHalts :=
  fun _ h => cycle_of_fetch_none (fetch_eq_none.2 h)

/-- Settles O45: by where the cycle halted; an instruction's encoding is the word that was fetched. -/
theorem haltReportsTheOpcodeAndPc : Obligations.HaltReportsTheOpcodeAndPc := by
  refine ⟨fun s f h => ?_, fun op pc => ⟨rfl, rfl, rfl, rfl, rfl, rfl, rfl, rfl⟩⟩
  obtain ⟨hf, rfl⟩ | ⟨op, hf, -, rfl⟩ | ⟨op, i, hf, hd, he⟩ := cycle_eq_fault h
  · exact ⟨_, rfl, hf.symm, rfl, by simp, by simp [hf]⟩
  · exact ⟨_, rfl, hf.symm, rfl, by simp, by simp [hf]⟩
  · obtain ⟨c, hsig, hlow, hhigh⟩ := haltSignal_of_haltOf (exec_eq_fault_iff.1 he)
    rw [encode_of_decode hd] at hsig
    refine ⟨_, hsig, hf.symm, rfl, hhigh, iff_of_false ?_ (by simp [hf])⟩
    rintro rfl
    exact absurd hlow (by decide)

/-- Settles O46: the fetch does not see the environment, and of the halt conditions only that of `Dxyn` does, where
the stall comes first. -/
theorem haltRepeatsUnderAnyInputs : Obligations.HaltRepeatsUnderAnyInputs := by
  intro s f keys env k h
  have hfetch : fetch (s.withEnvironment keys env k) = fetch s := fetch_congr rfl rfl rfl
  obtain ⟨hf, rfl⟩ | ⟨op, hf, hd, rfl⟩ | ⟨op, i, hf, hd, he⟩ := cycle_eq_fault h
  · exact .inl (cycle_of_fetch_none (hfetch.trans hf))
  · exact .inl (cycle_of_unknown (hfetch.trans hf) hd)
  · rw [cycle_of_fetch (hfetch.trans hf) hd, exec_eq_fault_iff]
    rw [exec_eq_fault_iff] at he
    by_cases hi : ∃ x y n, i = .drw x y n
    · obtain ⟨x, y, n, rfl⟩ := hi
      by_cases hs : (s.withEnvironment keys env k).throttled = true
      · exact .inr ⟨⟨op, x, y, n, hf, hd⟩, exec_drw_of_throttled hs⟩
      · exact .inl (haltOf_drw_withEnvironment he keys env k hs)
    · push Not at hi
      rw [haltOf_withEnvironment hi]
      exact .inl he

end Sys2Proof.Machine

/-!
PROOFS on the scheduler (60_exceptions.md sections 3 and 4). What a cycle leaves of the state's inputs and
configuration, from the frame of its instruction; and that a step does not see the lines listed after the coming one.
-/

namespace Sys2Proof.Machine

/-! ### The frame tick and the end of an iteration -/

section
variable {s t u : State} {i : Instr}

theorem countDown_eq (b : Byte) : countDown b = BitVec.ofNat 8 (b.toNat - 1) := by
  apply BitVec.eq_of_toNat_eq
  rw [countDown_toNat, BitVec.toNat_ofNat]
  omega

theorem soundTimer_mem_writes : Elem.soundTimer ∈ writes i ↔ ∃ x, i = .ldSTVx x := by
  cases i <;> simp [writes, regsUpTo]

/-- `n` frame ticks take `n` off each timer, not below 0 (R311). -/
theorem frameTick_iterate_timers (n : Nat) :
    (State.frameTick^[n] s).delayTimer.toNat = s.delayTimer.toNat - n ∧
    (State.frameTick^[n] s).soundTimer.toNat = s.soundTimer.toNat - n := by
  induction n with
  | zero => exact ⟨rfl, rfl⟩
  | succ n ih =>
    obtain ⟨hdelay, hsound⟩ := ih
    rw [Function.iterate_succ_apply', State.frameTick_delayTimer, State.frameTick_soundTimer, countDown_toNat,
      countDown_toNat, hdelay, hsound, Nat.sub_sub, Nat.sub_sub]
    exact ⟨rfl, rfl⟩

/-- Frame ticks change the timers and the flushed frame alone (R311, R312). -/
theorem frameTick_iterate_frame (n : Nat) :
    State.frameTick^[n] s =
      { s with
        delayTimer := (State.frameTick^[n] s).delayTimer
        soundTimer := (State.frameTick^[n] s).soundTimer
        frameOut := (State.frameTick^[n] s).frameOut } := by
  induction n with
  | zero => rfl
  | succ n ih =>
    rw [Function.iterate_succ_apply', ih]
    rfl

/-- The last of the frame ticks flushed the framebuffer, which none of them changed (R312). -/
theorem frameTick_iterate_frameOut {n : Nat} (hn : 0 < n) : (State.frameTick^[n] s).frameOut = some s.gfx := by
  obtain ⟨k, rfl⟩ := Nat.exists_eq_add_of_lt hn
  rw [Nat.zero_add, Function.iterate_succ_apply', State.frameTick_frameOut, frameTick_iterate_frame]

/-! ### A cycle and a step leave the configuration and the coming inputs -/

/-- A cycle that continues changes only what its instruction may write, and `pc`. -/
theorem cycle_changesOnly (h : cycle s = .next t) : ∃ i, ChangesOnly (writes i) s t := by
  obtain ⟨_, i, -, -, he⟩ := cycle_eq_next h
  exact ⟨i, exec_changesOnly he⟩

/-- A step that continues ends the iteration of a state that differs from the polled one by its instruction's
writes. -/
theorem step_changesOnly (h : step s = .next t) : ∃ i u, ChangesOnly (writes i) s.poll u ∧ t = u.endIteration := by
  obtain ⟨-, u, hc, rfl⟩ := step_eq_next h
  obtain ⟨i, hf⟩ := cycle_changesOnly hc
  exact ⟨i, u, hf, rfl⟩

theorem step_of_open (h : s.input.isOpen = true) : step s = mapNext State.endIteration (cycle s.poll) := if_pos h

theorem step_of_closed (h : s.input.isOpen = false) : step s = .fault .closed := if_neg (by simp [h])

/-! ### A step reads one line of inputs -/

/-- The state with other lines of inputs listed. -/
def State.withEnv (env : List EnvInput) (s : State) : State := { s with env := env }

/-- A cycle does the same with other lines listed, if the coming input is the same. -/
theorem cycle_withEnv {env : List EnvInput} (h : (s.withEnv env).input = s.input) :
    cycle (s.withEnv env) = mapNext (State.withEnv env) (cycle s) := by
  have hfetch : fetch (s.withEnv env) = fetch s := fetch_congr rfl rfl rfl
  cases hf : fetch s with
  | none =>
    rw [cycle_of_fetch_none hf, cycle_of_fetch_none (hfetch.trans hf)]
    rfl
  | some op =>
    cases hd : decode op with
    | none =>
      rw [cycle_of_unknown hf hd, cycle_of_unknown (hfetch.trans hf) hd]
      rfl
    | some i =>
      rw [cycle_of_fetch hf hd, cycle_of_fetch (hfetch.trans hf) hd]
      have hthrottled : (s.withEnv env).throttled = s.throttled := by
        rw [State.throttled, State.throttled, h]
        rfl
      exact exec_mapUnread (fk := id) (ft := id) (fe := fun _ => env) (fd := id) (.inr rfl) (.inr rfl)
        (.inr (congrArg EnvInput.rnd h)) (.inr hthrottled)

/-- The end of an iteration uses the coming input for the tick alone, and drops its line. -/
theorem endIteration_withEnv {env : List EnvInput} (h : (s.withEnv env).input = s.input) :
    (s.withEnv env).endIteration = s.endIteration.withEnv env.tail := by
  rw [State.endIteration, h]
  rfl

/-- A step does what it does facing its coming input alone, and keeps the later lines. -/
theorem step_eq_facing :
    step s = mapNext (State.withEnv s.env.tail) (step (s.facing s.input)) := by
  by_cases ho : s.input.isOpen = true
  · have hcycle : cycle s.poll = mapNext (State.withEnv s.env) (cycle (s.facing s.input).poll) :=
      cycle_withEnv (s := (s.facing s.input).poll) (env := s.env) rfl
    rw [step_of_open ho, step_of_open (s := s.facing s.input) ho, hcycle]
    cases hc : cycle (s.facing s.input).poll with
    | next u =>
      obtain ⟨i, hf⟩ := cycle_changesOnly hc
      have hu : u.input = s.input := cycle_input (s := (s.facing s.input).poll) hc
      have henv : (u.withEnv s.env).input = s.input := State.input_congr rfl hf.drawIndex
      exact congrArg Host.Outcome.next (endIteration_withEnv (henv.trans hu.symm))
    | fault f => rfl
    | refused r => rfl
  · rw [Bool.not_eq_true] at ho
    rw [step_of_closed ho, step_of_closed (s := s.facing s.input) ho]
    rfl

end

/-- Settles O12: a tick counts down, so `n` of them take `n` off; and only `Fx15` and `Fx18` write a timer, from a
register. -/
theorem frameTicksCountDownToZero : Obligations.FrameTicksCountDownToZero := by
  refine ⟨fun n s => ?_, fun i s t h => ⟨?_, ?_⟩⟩
  · obtain ⟨hdelay, hsound⟩ := frameTick_iterate_timers (s := s) n
    exact ⟨hdelay, hsound, frameTick_iterate_frameOut, frameTick_iterate_frame n⟩
  · by_cases hw : Elem.delayTimer ∈ writes i
    · obtain ⟨x, rfl⟩ := delayTimer_mem_writes.1 hw
      cases h
      exact .inr ⟨x, rfl, rfl⟩
    · exact .inl ((exec_changesOnly h).delayTimer hw)
  · by_cases hw : Elem.soundTimer ∈ writes i
    · obtain ⟨x, rfl⟩ := soundTimer_mem_writes.1 hw
      cases h
      exact .inr ⟨x, rfl, rfl⟩
    · exact .inl ((exec_changesOnly h).soundTimer hw)

/-- Settles O13: no instruction writes the keys that the poll left. -/
theorem stepPollsTheKeys : Obligations.StepPollsTheKeys := by
  intro s t h
  obtain ⟨_, u, hf, rfl⟩ := step_changesOnly h
  exact hf.keys

/-- Settles O51: no instruction writes the configuration or the listed lines, and the end of an iteration drops the
first. -/
theorem stepKeepsTheConfiguration : Obligations.StepKeepsTheConfiguration := by
  intro s t h
  obtain ⟨_, u, hf, rfl⟩ := step_changesOnly h
  exact ⟨hf.cfg, congrArg List.tail hf.env, congrArg (· + 1) hf.drawIndex⟩

/-- Settles O52: a change of the coming inputs alone, of which an instruction reads the random byte or, through the
throttle, the stall. -/
theorem inputsReachOnlyTheirReaders : Obligations.InputsReachOnlyTheirReaders := by
  intro i s env k s' hrnd hstall
  have hthrottled : (∀ x y n, i ≠ .drw x y n) ∨ s'.throttled = s.throttled := by
    refine hstall.imp_right fun h => ?_
    have hcfg : s'.cfg = s.cfg := rfl
    rw [State.throttled, State.throttled, hcfg]
    rcases h with h | h <;> simp [h]
  exact exec_mapUnread (fk := id) (ft := id) (fe := fun _ => env) (fd := fun _ => k) (.inr rfl) (.inr rfl) hrnd hthrottled

/-- Settles O58: a step is the step facing its coming input, which is the first line listed or, with none listed, the
free values. -/
theorem stepReadsOneLineOfInputs : Obligations.StepReadsOneLineOfInputs := by
  refine ⟨fun s e rest henv => ?_, fun s henv => ?_⟩
  · have hstep := step_eq_facing (s := s)
    rw [State.input_of_cons s henv, henv] at hstep
    exact hstep
  · have hstep := step_eq_facing (s := s)
    rw [State.input_of_nil s henv, henv] at hstep
    rw [hstep]
    cases hf : step (s.facing (freeInput s.drawIndex)) with
    | next t =>
      obtain ⟨-, ht, -⟩ := stepKeepsTheConfiguration _ _ hf
      have hnil : t.env = [] := ht
      exact congrArg Host.Outcome.next (by rw [List.tail_nil, ← hnil]; rfl)
    | fault f => rfl
    | refused r => rfl

/-- Settles O9: the poll leaves the fetch, so the cycle runs the instruction that is decoded at `pc`. -/
theorem stepRunsTheDecodedInstruction : Obligations.StepRunsTheDecodedInstruction := by
  intro s w i ho hf hd
  refine ⟨rfl, ?_⟩
  rw [step_of_open ho, cycle_of_fetch ((fetch_poll (s := s)).trans hf) hd]

/-- Settles O10: by whether a tick is due. -/
theorem iterationEndsWithTheDueTick : Obligations.IterationEndsWithTheDueTick := by
  refine fun s => ⟨fun hdue => ?_, fun hdue => ?_⟩
  · rw [State.endIteration, hdue, State.tickWhen_true, ← countDown_eq, ← countDown_eq]
    rfl
  · rw [State.endIteration, hdue, State.tickWhen_false]
    rfl

/-- Settles O11: the window is tested first. -/
theorem closedWindowEndsTheRun : Obligations.ClosedWindowEndsTheRun :=
  fun _ => step_of_closed

end Sys2Proof.Machine

/-!
PROOFS on single instructions: the stack and `Bnnn` (41_control.md), the shifts and the random byte (42_alu.md),
`Fx1E` (43_index_memory.md), the key skips and the timer moves (45_timers_keys.md).
-/

namespace Sys2Proof.Machine

/-! ### The stack -/

section
variable {s t : State} {w : Word} {nnn : Addr12}

/-- A push with room on the stack: the three writes of R122. -/
theorem State.push?_of_lt (h : s.sp.val < 16) :
    s.push? w = some { s with
      stack := s.stack.set s.sp.val (s.pc + 2#16) h
      sp := ⟨s.sp.val + 1, Nat.succ_lt_succ h⟩
      pc := w } := dif_pos h

/-- A pop of entry `k`: the two writes of R120. -/
theorem State.pop?_of_eq_succ {k : Fin 16} (h : s.sp.val = k.val + 1) :
    s.pop? = some { s with sp := k.castSucc, pc := s.stack[k] } := by
  have hpos : 0 < s.sp.val := by omega
  have hk : s.sp.val - 1 = k.val := by omega
  rw [State.pop?, dif_pos hpos]
  simp [hk, Fin.castSucc, Fin.castAdd, Fin.castLE]

theorem exec_call_of_push (h : s.push? (addr nnn) = some t) : exec (.call nnn) s = .next t := by
  simp only [exec, execCall, h]

theorem exec_ret_of_pop (h : s.pop? = some t) : exec .ret s = .next t := by
  simp only [exec, execRet, h]

end

/-- Settles O15: by the push; the entry at `sp` is the one written. -/
theorem callPushesTheReturnAddress : Obligations.CallPushesTheReturnAddress := by
  intro nnn s h
  refine ⟨_, exec_call_of_push (State.push?_of_lt h), rfl, fun k => ?_, rfl⟩
  simp only [Fin.getElem_fin, Vector.getElem_set, eq_comm]

/-- Settles O16: by the pop. -/
theorem retPopsTheReturnAddress : Obligations.RetPopsTheReturnAddress := by
  intro s k h
  exact ⟨_, exec_ret_of_pop (State.pop?_of_eq_succ h), rfl, rfl⟩

/-- Settles O17: the pop reads the entry that the push wrote. -/
theorem callThenRetReturns : Obligations.CallThenRetReturns := by
  intro nnn s h
  obtain ⟨t, hcall, hsp, hstack, ht⟩ := callPushesTheReturnAddress nnn s h
  obtain ⟨u, hret, husp, hu⟩ := retPopsTheReturnAddress t ⟨s.sp.val, h⟩ hsp
  have hpc : t.stack[(⟨s.sp.val, h⟩ : Fin 16)] = s.pc + 2#16 := (hstack ⟨s.sp.val, h⟩).trans (if_pos rfl)
  have hback : u.sp = s.sp := Fin.ext husp
  refine ⟨t, u, hcall, hret, ?_⟩
  rw [hu, hback, hpc, ht]

/-- Settles O20: the target is the exact sum. -/
theorem jpV0GoesToTheUnmaskedSum : Obligations.JpV0GoesToTheUnmaskedSum :=
  fun nnn s => ⟨_, rfl, offsetTarget_toNat s nnn, rfl⟩

/-! ### Shifts, the random byte, `Fx1E` -/

section
variable (b : Byte)

theorem shiftRight_one_toNat : (b >>> 1).toNat = b.toNat / 2 := by
  rw [BitVec.toNat_ushiftRight, Nat.shiftRight_eq_div_pow, pow_one]

theorem shiftLeft_one_toNat : (b <<< 1).toNat = 2 * b.toNat % 256 := by
  rw [BitVec.toNat_shiftLeft, Nat.shiftLeft_eq, pow_one, Nat.mul_comm]

theorem flagOf_toNat (c : Bool) : (flagOf c).toNat = c.toNat := by cases c <;> rfl

theorem droppedRight_toNat : (droppedRight b).toNat = b.toNat % 2 := by
  rw [droppedRight, flagOf_toNat, BitVec.getLsbD, Nat.toNat_testBit, pow_zero, Nat.div_one]

theorem droppedLeft_toNat : (droppedLeft b).toNat = b.toNat / 128 := by
  have := b.isLt
  rw [droppedLeft, flagOf_toNat, BitVec.getLsbD, Nat.toNat_testBit]
  omega

end

/-- Settles O26: the source is `shiftSource`, read before the flag is written (D11). -/
theorem shiftsSetTheBitShiftedOut : Obligations.ShiftsSetTheBitShiftedOut := by
  intro x y s src
  have hsrc : shiftSource s x y = src := rfl
  rw [← hsrc]
  exact ⟨resultTo_toNat s x (shiftRight_one_toNat _) (droppedRight_toNat _),
    resultTo_toNat s x (shiftLeft_one_toNat _) (droppedLeft_toNat _)⟩

/-- Settles O27: by the write of one register. -/
theorem rndMasksTheRandomByte : Obligations.RndMasksTheRandomByte :=
  fun x nn s => loadTo_eq s x (s.input.rnd &&& nn)

/-- Settles O30: a sum that passes the check does not wrap. -/
theorem addIAddsWithoutAFlag : Obligations.AddIAddsWithoutAFlag := by
  intro x s h
  have hsum : (s.i + s.v[x].setWidth 16).toNat = s.i.toNat + s.v[x].toNat := by
    have := s.v[x].isLt
    rw [BitVec.toNat_add, BitVec.toNat_setWidth]
    omega
  exact ⟨_, if_neg (Nat.not_lt.2 h), hsum, rfl⟩

/-! ### Keys and timers -/

section
variable {x k : Reg} {s : State}

theorem exec_skp_of_keyCode (h : keyCode s x = some k) : exec (.skp x) s = .next (s.skipIf (keyDown s k)) := by
  simp only [exec, execSkp, h]

theorem exec_sknp_of_keyCode (h : keyCode s x = some k) : exec (.sknp x) s = .next (s.skipIf (!keyDown s k)) := by
  simp only [exec, execSknp, h]

end

/-- Settles O41: the key code is `k`, so both test its polled level. -/
theorem keySkipsTestThePolledKey : Obligations.KeySkipsTestThePolledKey := by
  intro x k s h
  have hk : keyCode s x = some k := (keyCode_eq_some s).2 h
  rw [exec_skp_of_keyCode hk, exec_sknp_of_keyCode hk]
  exact ⟨congrArg Host.Outcome.next (s.skipIf_of_iff Iff.rfl),
    congrArg Host.Outcome.next (s.skipIf_of_iff (Bool.not_eq_true' _).to_iff)⟩

/-- Settles O42: each is one write and the normal advance. -/
theorem timerMoves : Obligations.TimerMoves := fun x s =>
  ⟨encodeXNN_misc_toNat x 0x07#8, loadTo_eq s x s.delayTimer, encodeXNN_misc_toNat x 0x15#8, rfl,
    encodeXNN_misc_toNat x 0x18#8, rfl⟩

end Sys2Proof.Machine

/-!
PROOFS on the boot (70_reset_and_hazards.md) and on stalled draws in a run (44_display.md R193, 60_exceptions.md
R313). Loads that fit write memory alone and keep its form; stalls in a row leave the drawing state.
-/

namespace Sys2Proof.Machine

/-! ### The boot -/

section
variable {s t : State} {programs : List (List Byte)}

/-- A load that does not fit makes the boot a refusal (R325, I1). -/
theorem loadAll_of_long (h : ∃ p ∈ programs, 3584 < p.length) : s.loadAll programs = .refused .failedLoad := by
  induction programs generalizing s with
  | nil => simp at h
  | cons p rest ih =>
    rw [State.loadAll_cons]
    by_cases hp : 3584 < p.length
    · exact if_pos hp
    · rw [if_neg hp]
      obtain ⟨q, hq, hlong⟩ := h
      obtain rfl | hq := List.mem_cons.1 hq
      · exact absurd hlong hp
      · exact ih ⟨q, hq, hlong⟩

/-- A program that fits ends inside memory (R401). -/
theorem fits_of_length_le {p : List Byte} (h : p.length ≤ 3584) : 0x200 + p.length ≤ memSize := by
  rw [memSize]
  omega

/-- Loads that fit answer a state that differs in memory alone, in its form, with the last program at 0x200. -/
theorem loadAll_of_fits (hw : s.memWf) (h : ∀ p ∈ programs, p.length ≤ 3584) :
    ∃ t, s.loadAll programs = .next t ∧ t.memWf ∧ t = { s with mem := t.mem } ∧
      ∀ p, programs.getLast? = some p → ∀ k (h : k < p.length), t.readByte (0x200 + k) = p[k] := by
  induction programs generalizing s with
  | nil => exact ⟨s, rfl, hw, rfl, by simp⟩
  | cons p rest ih =>
    obtain ⟨hp, hrest⟩ := List.forall_mem_cons.1 h
    have hfit := fits_of_length_le hp
    have hwp : (s.writeBytes 0x200 p).memWf := s.memWf_writeBytes hw hfit
    rw [State.loadAll_cons, if_neg (Nat.not_lt.2 hp)]
    cases rest with
    | nil =>
      refine ⟨_, rfl, hwp, rfl, fun q hq k hk => ?_⟩
      cases hq
      exact s.readByte_writeBytes_same hw hfit hk
    | cons q qs =>
      obtain ⟨t, hload, hwt, ht, hlast⟩ := ih hwp hrest
      refine ⟨t, hload, hwt, ht, fun q' hq' => hlast q' ?_⟩
      rwa [List.getLast?_cons_cons] at hq'

/-- The reset of R400 leaves a state in the invariant. -/
theorem initialized_inv (s : State) : s.initialized.Inv := by
  refine ⟨Memory.wf_nil, (by decide : (0x200#16).toNat ≤ 0x10FE), fun k => ?_⟩
  show (Vector.replicate 16 0#16)[k].toNat ≤ 0x1000
  simp

theorem boot_inv (h : boot s programs = .next t) : t.Inv := by
  obtain ⟨hmem, hpc, hstack⟩ := initialized_inv s
  by_cases hlong : ∃ p ∈ programs, 3584 < p.length
  · rw [boot, loadAll_of_long hlong] at h
    cases h
  · push Not at hlong
    obtain ⟨t', hload, hwf, ht, -⟩ := loadAll_of_fits hmem hlong
    cases hload.symm.trans h
    refine ⟨hwf, ?_, ?_⟩
    · rw [ht]; exact hpc
    · rw [ht]; exact hstack

end

/-- Settles O50: the reset of R400 leaves the invariant, and loads that fit write memory alone. -/
theorem runStartsInTheInvariant : Obligations.RunStartsInTheInvariant :=
  ⟨initialized_inv State.reset, fun _ _ _ => boot_inv⟩

/-- Settles O57: by whether a load fails. -/
theorem noRunFollowsAFailedLoad : Obligations.NoRunFollowsAFailedLoad := by
  refine fun s programs n => ⟨fun hlong => ?_, fun hfits => ?_⟩
  · rw [bootAndRun, boot, loadAll_of_long hlong]
    rfl
  · obtain ⟨t, hload, -, ht, hlast⟩ := loadAll_of_fits (s := s.initialized) Memory.wf_nil hfits
    refine ⟨t, hload, ?_, ht, hlast⟩
    rw [bootAndRun, boot, hload]
    rfl

/-! ### Stalled draws -/

/-- `t` has the drawing state of `s`: all but the keys, the timers and the model's own fields. -/
def SameDrawing (s t : State) : Prop :=
  t = { s with
    keys := t.keys
    delayTimer := t.delayTimer
    soundTimer := t.soundTimer
    env := t.env
    drawIndex := t.drawIndex
    frameOut := t.frameOut }

namespace SameDrawing

variable {s t u : State}

theorem refl (s : State) : SameDrawing s s := rfl

theorem trans (h : SameDrawing s t) (h' : SameDrawing t u) : SameDrawing s u := by
  rw [SameDrawing] at h h' ⊢
  rw [h', h]

theorem fetch_eq (h : SameDrawing s t) : fetch t = fetch s := by
  rw [SameDrawing] at h
  rw [h]
  exact fetch_congr rfl rfl rfl

/-- A step that stalls leaves the drawing state (R193). -/
theorem of_step (hs : s.stalls = true) (h : step s = .next t) : SameDrawing s t := by
  obtain ⟨⟨w, x, y, n, hf, hd⟩, hthrottled⟩ := State.stalls_iff.1 hs
  obtain ⟨-, u, hc, rfl⟩ := step_eq_next h
  have hcycle : cycle s.poll = .next s.poll :=
    (cycle_of_fetch (s := s.poll) hf hd).trans (exec_drw_of_throttled hthrottled)
  cases hcycle.symm.trans hc
  rfl

end SameDrawing

section
variable {e : Environment} {r : Nat → State} {n : Nat}

/-- Through iterations that all stall a run keeps the drawing state. -/
theorem IsRun.sameDrawing (hr : IsRun e r) {m : Nat} (hnm : n ≤ m)
    (hstalls : ∀ j, n ≤ j → j < m → ((r j).facing (e j)).stalls = true) : SameDrawing (r n) (r m) := by
  obtain ⟨-, hstep⟩ := hr
  induction m, hnm using Nat.le_induction with
  | base => exact .refl _
  | succ m hnm ih =>
    have hone : SameDrawing ((r m).facing (e m)) (r (m + 1)) := .of_step (hstalls m hnm m.lt_succ_self) (hstep m)
    exact (ih fun j hj hjm => hstalls j hj (hjm.trans m.lt_succ_self)).trans hone

/-- Where stalls end there is a first iteration from `n` on that does not stall. -/
theorem StallsEnd.exists_first (h : StallsEnd e r) (n : Nat) :
    ∃ m, n ≤ m ∧ ((r m).facing (e m)).stalls = false ∧
      ∀ j, n ≤ j → j < m → ((r j).facing (e j)).stalls = true := by
  classical
  have hex := h n
  obtain ⟨hnm, hm⟩ := Nat.find_spec hex
  refine ⟨Nat.find hex, hnm, hm, fun j hj hjm => ?_⟩
  simpa [hj] using Nat.find_min hex hjm

end

/-- Settles O60: up to the first iteration that does not stall the drawing state is kept, and so is the fetch. -/
theorem fairRunStalledDrawGoesOn : Obligations.FairRunStalledDrawGoesOn := by
  rintro e r n ⟨hrun, -, hend⟩ hstalls
  obtain ⟨m, hnm, hm, hbefore⟩ := hend.exists_first n
  have hne : n ≠ m := by
    rintro rfl
    rw [hm] at hstalls
    cases hstalls
  have hsame : SameDrawing (r n) (r m) := hrun.sameDrawing hnm hbefore
  exact ⟨m, lt_of_le_of_ne hnm hne, hm, hsame.fetch_eq, hsame⟩

end Sys2Proof.Machine
